-- ==== Sys2Proof/Word.lean ====
section
/-! DEFINITION. The word types of the toy-vm CORE (spec/00_scope.md R5): a register, an address and a memory
cell are 16 bits; a character is 8 bits. -/

namespace Sys2Proof

/-- A 16-bit word: a register's contents, a cell address, a memory cell or an instruction word (R5). -/
abbrev Word := BitVec 16

/-- An 8-bit character of the input device or of the output stream (R22, R23). -/
abbrev Byte := BitVec 8

end Sys2Proof
end

