-- ==== Sys2Proof/Syntax.lean ====
section
/-! DEFINITION. The instructions: one constructor of `Instr` per row of spec/opcode_table.json, with the operand fields of
spec/30_encoding.md R51 and R52. Bits a format ignores (R58) are not operands. -/

namespace Sys2Proof

/-- The eight general registers (R10). -/
inductive Reg where
  | r0 | r1 | r2 | r3 | r4 | r5 | r6 | r7
deriving DecidableEq, Repr

/-- An instruction. The six service routines have table rows of their own that refine the TRAP row (R60, R68), so `trap` stands
for the other vectors; `WellFormed` says so. -/
inductive Instr where
  /-- BR: cond-mask (bit 2 = n, bit 1 = z, bit 0 = p) and PCoffset9 (R90) -/
  | br (mask : BitVec 3) (off : BitVec 9)
  /-- ADD, register mode (R80) -/
  | addReg (dr sr1 sr2 : Reg)
  /-- ADD, immediate mode (R80) -/
  | addImm (dr sr1 : Reg) (imm : BitVec 5)
  /-- LD (R100) -/
  | ld (dr : Reg) (off : BitVec 9)
  /-- ST (R104) -/
  | st (sr : Reg) (off : BitVec 9)
  /-- JSRR, opcode 4 with bit 11 clear (R94) -/
  | jsrr (base : Reg)
  /-- JSR, opcode 4 with bit 11 set (R93) -/
  | jsr (off : BitVec 11)
  /-- AND, register mode (R81) -/
  | andReg (dr sr1 sr2 : Reg)
  /-- AND, immediate mode (R81) -/
  | andImm (dr sr1 : Reg) (imm : BitVec 5)
  /-- LDR (R102) -/
  | ldr (dr base : Reg) (off : BitVec 6)
  /-- STR (R106) -/
  | str (sr base : Reg) (off : BitVec 6)
  /-- Reserved opcode 8 (R57, R131) -/
  | reserved8
  /-- NOT (R82) -/
  | not (dr sr : Reg)
  /-- LDI (R101) -/
  | ldi (dr : Reg) (off : BitVec 9)
  /-- STI (R105) -/
  | sti (sr : Reg) (off : BitVec 9)
  /-- JMP (R92) -/
  | jmp (base : Reg)
  /-- Reserved opcode 13 (R57, R131) -/
  | reserved13
  /-- LEA (R103) -/
  | lea (dr : Reg) (off : BitVec 9)
  /-- TRAP with the vector `vec` (R110) -/
  | trap (vec : BitVec 8)
  /-- TRAP x20 (R112) -/
  | getc
  /-- TRAP x21 (R113) -/
  | out
  /-- TRAP x22 (R114) -/
  | puts
  /-- TRAP x23, the table's IN (R115) -/
  | inp
  /-- TRAP x24 (R116) -/
  | putsp
  /-- TRAP x25 (R117) -/
  | halt
deriving DecidableEq, Repr

end Sys2Proof
end

