-- ==== Sys2Proof/WellFormed.lean ====
section
/-! DEFINITION. Which instruction terms are well formed: every field already has its width (spec/30_encoding.md R51), so the one
check is that a defined trap vector is written as its own table row, not as `trap`. -/

namespace Sys2Proof

/-- The six defined trap vectors 0x20..0x25 (R60). -/
def definedVector (vec : BitVec 8) : Bool :=
  decide (0x20#8 ≤ vec) && decide (vec ≤ 0x25#8)

/-- A term is well formed when decoding its encoding can give it back (R60, R61). -/
def Instr.WellFormed : Instr → Bool
  | .trap vec => !definedVector vec
  | .br _ _ => true
  | .addReg _ _ _ => true
  | .addImm _ _ _ => true
  | .ld _ _ => true
  | .st _ _ => true
  | .jsrr _ => true
  | .jsr _ => true
  | .andReg _ _ _ => true
  | .andImm _ _ _ => true
  | .ldr _ _ _ => true
  | .str _ _ _ => true
  | .reserved8 => true
  | .not _ _ => true
  | .ldi _ _ => true
  | .sti _ _ => true
  | .jmp _ => true
  | .reserved13 => true
  | .lea _ _ => true
  | .getc => true
  | .out => true
  | .puts => true
  | .inp => true
  | .putsp => true
  | .halt => true

end Sys2Proof
end

