-- ==== Sys2Proof/Decode.lean ====
section
/-! DEFINITION. Decoding and encoding (spec/30_encoding.md R50 to R62). Decoding is total: every one of the 65536 words is
exactly one instruction, the reserved opcodes included (R61), so nothing is rejected. The opcode numbers and bit positions are
the spec's, supplied from general knowledge (D1, D2; assumption 3). -/

namespace Sys2Proof

/-! ### Register numbers (R10, R51) -/

/-- The register a 3-bit index names. -/
def Reg.ofBits (b : BitVec 3) : Reg :=
  match b.toNat with
  | 0 => .r0
  | 1 => .r1
  | 2 => .r2
  | 3 => .r3
  | 4 => .r4
  | 5 => .r5
  | 6 => .r6
  | _ => .r7

/-- The 3-bit index of a register. -/
def Reg.toBits : Reg → BitVec 3
  | .r0 => 0
  | .r1 => 1
  | .r2 => 2
  | .r3 => 3
  | .r4 => 4
  | .r5 => 5
  | .r6 => 6
  | .r7 => 7

/-! ### Fields of an instruction word (R51) -/

/-- ir[15:12] -/
def opcodeField (ir : Word) : BitVec 4 := ir.extractLsb' 12 4
/-- DR, or SR of a store: ir[11:9] -/
def regField11 (ir : Word) : Reg := Reg.ofBits (ir.extractLsb' 9 3)
/-- SR1, BaseR, or SR of NOT: ir[8:6] -/
def regField8 (ir : Word) : Reg := Reg.ofBits (ir.extractLsb' 6 3)
/-- SR2: ir[2:0] -/
def regField2 (ir : Word) : Reg := Reg.ofBits (ir.extractLsb' 0 3)
/-- cond-mask: ir[11:9] -/
def maskField (ir : Word) : BitVec 3 := ir.extractLsb' 9 3
/-- imm5: ir[4:0] -/
def imm5Field (ir : Word) : BitVec 5 := ir.extractLsb' 0 5
/-- offset6: ir[5:0] -/
def offset6Field (ir : Word) : BitVec 6 := ir.extractLsb' 0 6
/-- PCoffset9: ir[8:0] -/
def pcOffset9Field (ir : Word) : BitVec 9 := ir.extractLsb' 0 9
/-- PCoffset11: ir[10:0] -/
def pcOffset11Field (ir : Word) : BitVec 11 := ir.extractLsb' 0 11
/-- trapvect8: ir[7:0] -/
def trapVectField (ir : Word) : BitVec 8 := ir.extractLsb' 0 8
/-- The immediate-mode flag I: ir[5] (R54) -/
def immFlag (ir : Word) : Bool := ir.getLsbD 5
/-- The long-form flag L of opcode 4: ir[11] (R55) -/
def longFlag (ir : Word) : Bool := ir.getLsbD 11

/-! ### Decode -/

/-- Opcode 15 by its vector (R60, R110): six named routines, `trap` for every other vector. -/
def decodeTrap (vec : BitVec 8) : Instr :=
  match vec.toNat with
  | 0x20 => .getc
  | 0x21 => .out
  | 0x22 => .puts
  | 0x23 => .inp
  | 0x24 => .putsp
  | 0x25 => .halt
  | _ => .trap vec

/-- `decode(ir)` of R61. -/
def decode (ir : Word) : Instr :=
  match (opcodeField ir).toNat with
  | 0 => .br (maskField ir) (pcOffset9Field ir)
  | 1 => if immFlag ir then .addImm (regField11 ir) (regField8 ir) (imm5Field ir) else .addReg (regField11 ir) (regField8 ir) (regField2 ir)
  | 2 => .ld (regField11 ir) (pcOffset9Field ir)
  | 3 => .st (regField11 ir) (pcOffset9Field ir)
  | 4 => if longFlag ir then .jsr (pcOffset11Field ir) else .jsrr (regField8 ir)
  | 5 => if immFlag ir then .andImm (regField11 ir) (regField8 ir) (imm5Field ir) else .andReg (regField11 ir) (regField8 ir) (regField2 ir)
  | 6 => .ldr (regField11 ir) (regField8 ir) (offset6Field ir)
  | 7 => .str (regField11 ir) (regField8 ir) (offset6Field ir)
  | 8 => .reserved8
  | 9 => .not (regField11 ir) (regField8 ir)
  | 10 => .ldi (regField11 ir) (pcOffset9Field ir)
  | 11 => .sti (regField11 ir) (pcOffset9Field ir)
  | 12 => .jmp (regField8 ir)
  | 13 => .reserved13
  | 14 => .lea (regField11 ir) (pcOffset9Field ir)
  | _ => decodeTrap (trapVectField ir)

/-- What the decoder reads from an instruction word of `nbits` bits (at most one 16-bit cell, R50) with bits `w`; bits above
`nbits` are 0. -/
def decodeTableWord (nbits w : Nat) : Option Instr :=
  if 0 < nbits ∧ nbits ≤ 16 ∧ w < 2 ^ nbits then some (decode (BitVec.ofNat 16 w)) else none

/-! ### Encode (R62), with the canonical fill of R58: zeros, but ones in NOT bits 5..0 -/

/-- A field's bits at their place in the word: `v << lsb` (R62). -/
def place {n : Nat} (v : BitVec n) (lsb : Nat) : Word := v.setWidth 16 <<< lsb

/-- The instruction word of an instruction (R62). -/
def encode : Instr → Word
  | .br mask off => 0x0000 ||| place mask 9 ||| place off 0
  | .addReg dr sr1 sr2 => 0x1000 ||| place dr.toBits 9 ||| place sr1.toBits 6 ||| place sr2.toBits 0
  | .addImm dr sr1 imm => 0x1020 ||| place dr.toBits 9 ||| place sr1.toBits 6 ||| place imm 0
  | .ld dr off => 0x2000 ||| place dr.toBits 9 ||| place off 0
  | .st sr off => 0x3000 ||| place sr.toBits 9 ||| place off 0
  | .jsrr base => 0x4000 ||| place base.toBits 6
  | .jsr off => 0x4800 ||| place off 0
  | .andReg dr sr1 sr2 => 0x5000 ||| place dr.toBits 9 ||| place sr1.toBits 6 ||| place sr2.toBits 0
  | .andImm dr sr1 imm => 0x5020 ||| place dr.toBits 9 ||| place sr1.toBits 6 ||| place imm 0
  | .ldr dr base off => 0x6000 ||| place dr.toBits 9 ||| place base.toBits 6 ||| place off 0
  | .str sr base off => 0x7000 ||| place sr.toBits 9 ||| place base.toBits 6 ||| place off 0
  | .reserved8 => 0x8000
  | .not dr sr => 0x903F ||| place dr.toBits 9 ||| place sr.toBits 6
  | .ldi dr off => 0xA000 ||| place dr.toBits 9 ||| place off 0
  | .sti sr off => 0xB000 ||| place sr.toBits 9 ||| place off 0
  | .jmp base => 0xC000 ||| place base.toBits 6
  | .reserved13 => 0xD000
  | .lea dr off => 0xE000 ||| place dr.toBits 9 ||| place off 0
  | .trap vec => 0xF000 ||| place vec 0
  | .getc => 0xF020
  | .out => 0xF021
  | .puts => 0xF022
  | .inp => 0xF023
  | .putsp => 0xF024
  | .halt => 0xF025

/-! ### The opcode table (spec/opcode_table.json) -/

/-- The `mask` of an instruction's row of the opcode table: the bits that select it. -/
def rowMask : Instr → Word
  | .br _ _ => 0xF000
  | .addReg _ _ _ => 0xF020
  | .addImm _ _ _ => 0xF020
  | .ld _ _ => 0xF000
  | .st _ _ => 0xF000
  | .jsrr _ => 0xF800
  | .jsr _ => 0xF800
  | .andReg _ _ _ => 0xF020
  | .andImm _ _ _ => 0xF020
  | .ldr _ _ _ => 0xF000
  | .str _ _ _ => 0xF000
  | .reserved8 => 0xF000
  | .not _ _ => 0xF000
  | .ldi _ _ => 0xF000
  | .sti _ _ => 0xF000
  | .jmp _ => 0xF000
  | .reserved13 => 0xF000
  | .lea _ _ => 0xF000
  | .trap _ => 0xF000
  | .getc => 0xF0FF
  | .out => 0xF0FF
  | .puts => 0xF0FF
  | .inp => 0xF0FF
  | .putsp => 0xF0FF
  | .halt => 0xF0FF

/-- The `match` of an instruction's row of the opcode table. -/
def rowMatch : Instr → Word
  | .br _ _ => 0x0000
  | .addReg _ _ _ => 0x1000
  | .addImm _ _ _ => 0x1020
  | .ld _ _ => 0x2000
  | .st _ _ => 0x3000
  | .jsrr _ => 0x4000
  | .jsr _ => 0x4800
  | .andReg _ _ _ => 0x5000
  | .andImm _ _ _ => 0x5020
  | .ldr _ _ _ => 0x6000
  | .str _ _ _ => 0x7000
  | .reserved8 => 0x8000
  | .not _ _ => 0x9000
  | .ldi _ _ => 0xA000
  | .sti _ _ => 0xB000
  | .jmp _ => 0xC000
  | .reserved13 => 0xD000
  | .lea _ _ => 0xE000
  | .trap _ => 0xF000
  | .getc => 0xF020
  | .out => 0xF021
  | .puts => 0xF022
  | .inp => 0xF023
  | .putsp => 0xF024
  | .halt => 0xF025

/-- The bits of the instruction's format that the decoder ignores (R58; for the reserved opcodes bits 11..0, R57). -/
def ignoredBits : Instr → Word
  | .br _ _ => 0x0000
  | .addReg _ _ _ => 0x0018
  | .addImm _ _ _ => 0x0000
  | .ld _ _ => 0x0000
  | .st _ _ => 0x0000
  | .jsrr _ => 0x063F
  | .jsr _ => 0x0000
  | .andReg _ _ _ => 0x0018
  | .andImm _ _ _ => 0x0000
  | .ldr _ _ _ => 0x0000
  | .str _ _ _ => 0x0000
  | .reserved8 => 0x0FFF
  | .not _ _ => 0x003F
  | .ldi _ _ => 0x0000
  | .sti _ _ => 0x0000
  | .jmp _ => 0x0E3F
  | .reserved13 => 0x0FFF
  | .lea _ _ => 0x0000
  | .trap _ => 0x0F00
  | .getc => 0x0F00
  | .out => 0x0F00
  | .puts => 0x0F00
  | .inp => 0x0F00
  | .putsp => 0x0F00
  | .halt => 0x0F00

end Sys2Proof
end

