-- ==== Sys2Proof/Config.lean ====
section
/-! DEFINITION. The parameters the document leaves open (spec/00_scope.md R6). A machine carries one `Params` value; it is
fixed at reset and no step changes it (R27). The defaults are in Machine/Defaults.lean. -/

namespace Sys2Proof

/-- UNKNOWN_TRAP_POLICY (R6, R118): what a TRAP with a vector outside 0x20..0x25 does. The document allows exactly these two. -/
inductive UnknownTrapPolicy where
  /-- `raise UnknownTrap(vec)` (R132) -/
  | fault
  /-- no effect beyond the link write of R110 -/
  | noop
deriving DecidableEq, Repr

/-- The eight GPR_RESET values, or the eight general registers themselves (R6, R10). -/
structure Regs where
  r0 : Word
  r1 : Word
  r2 : Word
  r3 : Word
  r4 : Word
  r5 : Word
  r6 : Word
  r7 : Word
deriving DecidableEq, Repr

/-- The parameters of R6, under the spec's names. -/
structure Params where
  /-- KBSR_ADDR, the keyboard status address -/
  kbsrAddr : Word
  /-- KBDR_ADDR, the keyboard data address -/
  kbdrAddr : Word
  /-- PC_RESET -/
  pcReset : Word
  /-- GPR_RESET -/
  gprReset : Regs
  /-- COND_RESET -/
  condReset : BitVec 3
  /-- MEM_RESET, as the canonical list of the cells that differ from 0x0000 (Machine/Memory.lean) -/
  memReset : List (Nat × Word)
  /-- IN_PROMPT -/
  inPrompt : List Byte
  /-- HALT_NOTICE -/
  haltNotice : List Byte
  /-- NEWLINE -/
  newline : Byte
  /-- UNKNOWN_TRAP_POLICY -/
  unknownTrapPolicy : UnknownTrapPolicy
deriving DecidableEq, Repr

end Sys2Proof
end

