-- ==== Sys2Proof/Machine/Defaults.lean ====
section
/-! DEFINITION. The default parameter values of spec/00_scope.md R6 (the spec's own choices D5, D12, D13, D14, D16; assumptions 2, 6, 17,
18). `State.reset` uses them. -/

namespace Sys2Proof.Machine

/-- KBSR_ADDR (D5) -/
def defaultKbsrAddr : Word := 0xFE00
/-- KBDR_ADDR (D5) -/
def defaultKbdrAddr : Word := 0xFE02
/-- PC_RESET (D16) -/
def defaultPcReset : Word := 0x3000
/-- GPR_RESET (D16) -/
def defaultGprReset : Regs := ⟨0, 0, 0, 0, 0, 0, 0, 0⟩
/-- COND_RESET: Z (D16) -/
def defaultCondReset : BitVec 3 := 0b010
/-- MEM_RESET: every cell 0x0000 (D16) -/
def defaultMemReset : List (Nat × Word) := []
/-- IN_PROMPT: "Enter a character: ", 19 bytes (D12) -/
def defaultInPrompt : List Byte :=
  [0x45, 0x6E, 0x74, 0x65, 0x72, 0x20, 0x61, 0x20, 0x63, 0x68, 0x61, 0x72, 0x61, 0x63, 0x74, 0x65, 0x72, 0x3A, 0x20]
/-- HALT_NOTICE: "HALT" then 0x0A, 5 bytes (D13) -/
def defaultHaltNotice : List Byte := [0x48, 0x41, 0x4C, 0x54, 0x0A]
/-- NEWLINE (D12) -/
def defaultNewline : Byte := 0x0A
/-- UNKNOWN_TRAP_POLICY (D14) -/
def defaultUnknownTrapPolicy : UnknownTrapPolicy := .fault

/-- Every parameter at its default (R6). -/
def defaultParams : Params where
  kbsrAddr := defaultKbsrAddr
  kbdrAddr := defaultKbdrAddr
  pcReset := defaultPcReset
  gprReset := defaultGprReset
  condReset := defaultCondReset
  memReset := defaultMemReset
  inPrompt := defaultInPrompt
  haltNotice := defaultHaltNotice
  newline := defaultNewline
  unknownTrapPolicy := defaultUnknownTrapPolicy

end Sys2Proof.Machine
end

