-- ==== Sys2Proof/Machine/Memory.lean ====
section
/-! DEFINITION. The memory array `M` as plain data (spec/10_state.md R25, spec/20_memory.md R30): a list of (address, 16-bit cell)
pairs in one canonical form. The addressable unit is the 16-bit cell, not the byte (R30, assumption 23), and an unlisted cell reads as
MEM_RESET's default 0x0000 (R28). -/

namespace Sys2Proof.Machine

/-- What a cell that is not listed holds (R28: MEM_RESET, default 0x0000). -/
def memFill : Word := 0x0000

/-- The cells whose value differs from `memFill`, by rising address. -/
abbrev Memory := List (Nat × Word)

/-- The canonical form from address `lo` on: addresses at least `lo`, below 65536 and strictly rising, no value `memFill`. -/
def Memory.wfFrom : Nat → Memory → Bool
  | _, [] => true
  | lo, (k, v) :: m => decide (lo ≤ k) && decide (k < 65536) && decide (v ≠ memFill) && Memory.wfFrom (k + 1) m

/-- The memory is in its canonical form. -/
def Memory.wf (m : Memory) : Bool := Memory.wfFrom 0 m

/-- The value at a listed address, else `memFill`. -/
def Memory.readNat : Memory → Nat → Word
  | [], _ => memFill
  | (k, v) :: m, a => if k = a then v else Memory.readNat m a

/-- `M[a]` as raw storage, no device side effect (spec/00_scope.md §5). Every address is valid (R30). -/
def Memory.read (m : Memory) (a : Word) : Word := Memory.readNat m a.toNat

/-- Put `v` at address `a`, keeping the canonical form: storing `memFill` unlists the address. -/
def Memory.writeNat : Memory → Nat → Word → Memory
  | [], a, v => if v = memFill then [] else [(a, v)]
  | (k, w) :: m, a, v =>
    if a < k then (if v = memFill then (k, w) :: m else (a, v) :: (k, w) :: m)
    else if a = k then (if v = memFill then m else (a, v) :: m)
    else (k, w) :: Memory.writeNat m a v

/-- `M[a] <- v`, the assignment of R33, R35 and R156. -/
def Memory.write (m : Memory) (a v : Word) : Memory := Memory.writeNat m a.toNat v

end Sys2Proof.Machine
end

