-- ==== Sys2Proof/Machine/State.lean ====
section
/-! DEFINITION. The state of the CORE (spec/10_state.md) as plain data, and reset (R28, R150). -/

namespace Sys2Proof.Machine

/-- The run state (R18). -/
inductive RunState where
  | running
  | halted
deriving DecidableEq, Repr

/-- The fault cause (R19). -/
inductive FaultCause where
  | none
  | reservedOpcode
  | unknownTrap
deriving DecidableEq, Repr

/-- Where a service routine that has not finished goes on (R78, R119; assumptions 12 and 13). -/
inductive Routine where
  /-- GETC at its `KbdGetc` line (R112) -/
  | getc
  /-- IN at its `KbdGetc` line, the prompt already emitted (R115) -/
  | inp
  /-- PUTS at the head of its loop with address counter `a` (R114) -/
  | puts (a : Word)
  /-- PUTSP at the head of its loop with address counter `a` (R116) -/
  | putsp (a : Word)
deriving DecidableEq, Repr

/-- No step of this machine ends in a stop without a state: both fatal faults of R130 are next states with `fault` and `run`
written (R131, R132), and nothing else faults (R146). So there is no reason here, and no step can raise one. -/
inductive Fault where
deriving DecidableEq, Repr

/-- Why a step gives no meaning. -/
inductive Refusal where
  /-- Raised only by an arm of `exec` whose instruction has no meaning yet; safe. No arm raises it now. -/
  | notModelled (mnemonic : String)
deriving DecidableEq, Repr

/-- All state of the machine: the CORE's own (R10 to R20, R25), the two interfaces' (R22, R23), and what the model needs to say where
an unfinished step stands. -/
structure State where
  /-- `x[0]`..`x[7]` (R10) -/
  regs : Regs
  /-- `pc` (R13) -/
  pc : Word
  /-- `cond`: bit 2 = N, bit 1 = Z, bit 0 = P (R15) -/
  cond : BitVec 3
  /-- `run` (R18) -/
  run : RunState
  /-- `fault` (R19) -/
  fault : FaultCause
  /-- `M` (R25) -/
  mem : Memory
  /-- `kbd_q`, head first (R22) -/
  kbdQ : List Byte
  /-- What the host will append to `kbd_q`: one batch lands just before each poll or blocking read (R22, R78; assumption 11) -/
  arrivals : List (List Byte)
  /-- `out`, oldest byte first (R23) -/
  out : List Byte
  /-- How many bytes at the end of `out` are in an emission batch that `OutFlush` has not ended yet (R23) -/
  unflushed : Nat
  /-- The service routine in progress, if the step of a TRAP has not ended (R78, R119) -/
  pending : Option Routine
  /-- The parameters of the run (spec/00_scope.md R6); no step changes them (R27) -/
  params : Params
deriving DecidableEq, Repr

/-- What a step of this machine answers. -/
abbrev StepResult := Host.Outcome State Fault Refusal

/-- The machine right after reset with the parameters `p` (R28, R150): a fresh state (D24). -/
def State.resetWith (p : Params) : State where
  regs := p.gprReset
  pc := p.pcReset
  cond := p.condReset
  run := .running
  fault := .none
  mem := p.memReset
  kbdQ := []
  arrivals := []
  out := []
  unflushed := 0
  pending := none
  params := p

/-- The machine right after reset with every parameter at its default (R6, R28). -/
def State.reset : State := State.resetWith defaultParams

end Sys2Proof.Machine
end

