-- ==== Sys2Proof/Machine/Ops.lean ====
section
/-! DEFINITION. The named operations over registers, memory, the keyboard and the output stream, raising a fault, the TRAP entry, and
the fetch. -/

namespace Sys2Proof.Machine

/-! ### Registers (spec/10_state.md R10, R11: no register is hard-wired) -/

/-- The register named by `r`. -/
def Regs.get (x : Regs) : Reg → Word
  | .r0 => x.r0
  | .r1 => x.r1
  | .r2 => x.r2
  | .r3 => x.r3
  | .r4 => x.r4
  | .r5 => x.r5
  | .r6 => x.r6
  | .r7 => x.r7

/-- The register file with `v` in the register named by `r`. -/
def Regs.set (x : Regs) (r : Reg) (v : Word) : Regs :=
  match r with
  | .r0 => { x with r0 := v }
  | .r1 => { x with r1 := v }
  | .r2 => { x with r2 := v }
  | .r3 => { x with r3 := v }
  | .r4 => { x with r4 := v }
  | .r5 => { x with r5 := v }
  | .r6 => { x with r6 := v }
  | .r7 => { x with r7 := v }

/-- `x[r]` -/
def State.reg (s : State) (r : Reg) : Word := Regs.get s.regs r

/-- `x[r] <- v`; no flag is written. -/
def State.setReg (s : State) (r : Reg) (v : Word) : State := { s with regs := Regs.set s.regs r v }

/-- `pc <- t` -/
def State.setPc (s : State) (t : Word) : State := { s with pc := t }

/-! ### The input device (R22) -/

/-- The host appends characters to the tail of `kbd_q` (R22, R24). -/
def State.hostAppend (s : State) (cs : List Byte) : State := { s with kbdQ := s.kbdQ ++ cs }

/-- The batch the host appends just before the next interface event lands in `kbd_q` (R22, assumption 11). -/
def State.deliver (s : State) : State :=
  match s.arrivals with
  | [] => s
  | batch :: later => { s with kbdQ := s.kbdQ ++ batch, arrivals := later }

/-- Take the head of `kbd_q`, if there is one, after what the host has just appended. -/
def State.kbdTake (s : State) : Option Byte × State :=
  match s.deliver.kbdQ with
  | [] => (none, s.deliver)
  | c :: rest => (some c, { s.deliver with kbdQ := rest })

/-- `KbdPoll()`: non-blocking (R22). -/
def State.kbdPoll (s : State) : Option Byte × State := s.kbdTake

/-- One attempt of `KbdGetc()` (R22): `none` means that the engine goes on waiting (R119). -/
def State.kbdGetc (s : State) : Option Byte × State := s.kbdTake

/-! ### The output stream (R23) -/

/-- `OutEmit(b)` -/
def State.outEmit (s : State) (b : Byte) : State := { s with out := s.out ++ [b], unflushed := s.unflushed + 1 }

/-- `OutFlush()`: the end of an emission batch; `out` does not change. -/
def State.outFlush (s : State) : State := { s with unflushed := 0 }

/-- `for each byte b of bs in order: OutEmit(b)` -/
def State.outEmitAll : State → List Byte → State
  | s, [] => s
  | s, b :: bs => State.outEmitAll (s.outEmit b) bs

/-! ### Memory (spec/20_memory.md) -/

/-- A character, or one byte of a cell, zero-extended to a word (R33, R112). -/
def zext8 (c : Byte) : Word := c.setWidth 16

/-- `M[a]`, raw (spec/00_scope.md §5). -/
def State.cell (s : State) (a : Word) : Word := Memory.read s.mem a

/-- `M[a] <- v`, raw. -/
def State.setCell (s : State) (a v : Word) : State := { s with mem := Memory.write s.mem a v }

/-- `KbsrProbe()` (R33): a character taken sets bit 15 of the status cell and is staged in the data cell, zero-extended; else bit 15 is
cleared. Bits 14..0 of the status cell stay (D6). -/
def State.kbsrProbe (s : State) : State :=
  match s.kbdPoll with
  | (some c, s1) =>
    (s1.setCell s1.params.kbsrAddr (s1.cell s1.params.kbsrAddr ||| 0x8000)).setCell s1.params.kbdrAddr (zext8 c)
  | (none, s1) => s1.setCell s1.params.kbsrAddr (s1.cell s1.params.kbsrAddr &&& 0x7FFF)

/-- What a read of address `a` does before the word is taken: the probe at KBSR_ADDR, nothing elsewhere (R32, R34). -/
def State.probeFor (s : State) (a : Word) : State :=
  if a = s.params.kbsrAddr then s.kbsrProbe else s

/-- `MemRead(a, 1)` (R32): the word after the probe, and the state after it. Every read of the CORE goes through it (R36). -/
def State.memRead (s : State) (a : Word) : Word × State := ((s.probeFor a).cell a, s.probeFor a)

/-- `MemWrite(a, 1, v)` (R35): a pure store at every address. -/
def State.memWrite (s : State) (a v : Word) : State := s.setCell a v

/-! ### Faults and TRAP entry (spec/60_exceptions.md) -/

/-- `raise …` (R131, R132), this machine's only fault entry: the cause is recorded and the engine halts; nothing else is saved. The
fault is terminal, so no return stands beside it (R137). -/
def State.raise (s : State) (cause : FaultCause) : State := { s with fault := cause, run := .halted }

/-- `x[7] <- pc`, the link write of JSR, JSRR and of the TRAP entry (R93, R94, R110, R136). `pc` is already advanced. -/
def State.link (s : State) : State := s.setReg .r7 s.pc

/-! ### Fetch (spec/40_fetch_decode_cycle.md) -/

/-- The fetched word and the state the handler sees: `ir <- MemRead(pc, 1)`, then `pc <- pc + 1` modulo 65536 (R72, R73). -/
def State.fetch (s : State) : Word × State :=
  ((s.memRead s.pc).1, (s.memRead s.pc).2.setPc (s.pc + 1))

end Sys2Proof.Machine
end

