-- ==== Sys2Proof/Machine/Operands.lean ====
section
/-! DEFINITION. The operand forms: sign extension (spec/30_encoding.md R53), the second operand of ADD and AND (R54), and the effective
addresses (spec/43_load_store.md R107). -/

namespace Sys2Proof.Machine

/-- `sext_5(imm5)` (R53) -/
def sext5 (imm : BitVec 5) : Word := imm.signExtend 16

/-- `sext_6(offset6)` (R53) -/
def sext6 (off : BitVec 6) : Word := off.signExtend 16

/-- `sext_9(PCoffset9)` (R53) -/
def sext9 (off : BitVec 9) : Word := off.signExtend 16

/-- `sext_11(PCoffset11)` (R53) -/
def sext11 (off : BitVec 11) : Word := off.signExtend 16

/-- Bits 7..0 of a word (R113, R114, R116). -/
def lowByte (w : Word) : Byte := w.extractLsb' 0 8

/-- Bits 15..8 of a word (R116). -/
def highByte (w : Word) : Byte := w.extractLsb' 8 8

/-- PC-relative with a 9-bit offset: `pc + sext_9(PCoffset9)` on the advanced `pc` (R13, R90, R107). -/
def State.pcRel9 (s : State) (off : BitVec 9) : Word := s.pc + sext9 off

/-- PC-relative with an 11-bit offset: `pc + sext_11(PCoffset11)` (R93). -/
def State.pcRel11 (s : State) (off : BitVec 11) : Word := s.pc + sext11 off

/-- Base plus offset: `x[BaseR] + sext_6(offset6)` (R102, R106, R107). -/
def State.baseOff (s : State) (base : Reg) (off : BitVec 6) : Word := s.reg base + sext6 off

end Sys2Proof.Machine
end

