-- ==== Sys2Proof/Machine/Control.lean ====
section
/-! DEFINITION. BR, JMP, JSR, JSRR (spec/42_control.md R90 to R96). `pc` is already advanced; none of the four writes `cond` or touches
memory. -/

namespace Sys2Proof.Machine

/-- BR (R90). -/
def execBr (mask : BitVec 3) (off : BitVec 9) (s : State) : StepResult :=
  .next (if mask &&& s.cond ≠ 0 then s.setPc (s.pcRel9 off) else s)

/-- JMP (R92). -/
def execJmp (base : Reg) (s : State) : StepResult := .next (s.setPc (s.reg base))

/-- JSR (R93). -/
def execJsr (off : BitVec 11) (s : State) : StepResult := .next (s.link.setPc (s.pcRel11 off))

/-- JSRR (R94): register 7 is written first, so `JSRR R7` falls through (D17). -/
def execJsrr (base : Reg) (s : State) : StepResult := .next (s.link.setPc (s.link.reg base))

end Sys2Proof.Machine
end

