-- ==== Sys2Proof/Machine/Flags.lean ====
section
/-! DEFINITION. The flag computation: `setcc` and the flag-updating register write (spec/40_fetch_decode_cycle.md R76, spec/10_state.md
R15, R16). There is no carry and no overflow flag (R17). -/

namespace Sys2Proof.Machine

/-- What `setcc(v)` writes to `cond` (R76): Z for zero, N when bit 15 is set, else P. -/
def setcc (v : Word) : BitVec 3 :=
  if v = 0x0000 then 0b010 else if v.getLsbD 15 then 0b100 else 0b001

/-- A flag-updating register write: `x[r] <- v`, then `setcc(v)` (R16). -/
def State.writeRegCC (s : State) (r : Reg) (v : Word) : State := { s.setReg r v with cond := setcc v }

/-- The N flag (R15). -/
def State.flagN (s : State) : Bool := s.cond.getLsbD 2
/-- The Z flag (R15). -/
def State.flagZ (s : State) : Bool := s.cond.getLsbD 1
/-- The P flag (R15). -/
def State.flagP (s : State) : Bool := s.cond.getLsbD 0

end Sys2Proof.Machine
end

