-- ==== Sys2Proof/Machine/LoadStore.lean ====
section
/-! DEFINITION. LD, LDI, LDR, LEA, ST, STI, STR (spec/43_load_store.md R100 to R107). Every read is a `MemRead`, every write a `MemWrite`
(spec/20_memory.md R36), in the order of the rule's pseudocode (R43). -/

namespace Sys2Proof.Machine

/-- `v <- MemRead(ea, 1); x[DR] <- v; setcc(v)`, the tail of the three loads. -/
def State.loadInto (s : State) (dr : Reg) (ea : Word) : State :=
  (s.memRead ea).2.writeRegCC dr (s.memRead ea).1

/-- LD (R100). -/
def execLd (dr : Reg) (off : BitVec 9) (s : State) : StepResult := .next (s.loadInto dr (s.pcRel9 off))

/-- LDI (R101): the pointer read, then the data read. -/
def execLdi (dr : Reg) (off : BitVec 9) (s : State) : StepResult :=
  .next ((s.memRead (s.pcRel9 off)).2.loadInto dr (s.memRead (s.pcRel9 off)).1)

/-- LDR (R102). -/
def execLdr (dr base : Reg) (off : BitVec 6) (s : State) : StepResult := .next (s.loadInto dr (s.baseOff base off))

/-- LEA (R103): no memory access. -/
def execLea (dr : Reg) (off : BitVec 9) (s : State) : StepResult := .next (s.writeRegCC dr (s.pcRel9 off))

/-- ST (R104). -/
def execSt (sr : Reg) (off : BitVec 9) (s : State) : StepResult := .next (s.memWrite (s.pcRel9 off) (s.reg sr))

/-- STI (R105): the pointer read, then the write. -/
def execSti (sr : Reg) (off : BitVec 9) (s : State) : StepResult :=
  .next ((s.memRead (s.pcRel9 off)).2.memWrite (s.memRead (s.pcRel9 off)).1 ((s.memRead (s.pcRel9 off)).2.reg sr))

/-- STR (R106). -/
def execStr (sr base : Reg) (off : BitVec 6) (s : State) : StepResult := .next (s.memWrite (s.baseOff base off) (s.reg sr))

end Sys2Proof.Machine
end

