-- ==== Sys2Proof/Machine/Operate.lean ====
section
/-! DEFINITION. ADD, AND and NOT (spec/41_operate.md R80 to R83). Each source is read before the destination is written, and every sum
wraps modulo 65536 (R77). -/

namespace Sys2Proof.Machine

/-- `x[DR] <- x[SR1] + op2; setcc` (R80) -/
def State.addInto (s : State) (dr sr1 : Reg) (op2 : Word) : State := s.writeRegCC dr (s.reg sr1 + op2)

/-- `x[DR] <- x[SR1] & op2; setcc` (R81) -/
def State.andInto (s : State) (dr sr1 : Reg) (op2 : Word) : State := s.writeRegCC dr (s.reg sr1 &&& op2)

/-- ADD, register mode (R80). -/
def execAddReg (dr sr1 sr2 : Reg) (s : State) : StepResult := .next (s.addInto dr sr1 (s.reg sr2))

/-- ADD, immediate mode (R80). -/
def execAddImm (dr sr1 : Reg) (imm : BitVec 5) (s : State) : StepResult := .next (s.addInto dr sr1 (sext5 imm))

/-- AND, register mode (R81). -/
def execAndReg (dr sr1 sr2 : Reg) (s : State) : StepResult := .next (s.andInto dr sr1 (s.reg sr2))

/-- AND, immediate mode (R81). -/
def execAndImm (dr sr1 : Reg) (imm : BitVec 5) (s : State) : StepResult := .next (s.andInto dr sr1 (sext5 imm))

/-- NOT (R82). -/
def execNot (dr sr : Reg) (s : State) : StepResult := .next (s.writeRegCC dr (~~~(s.reg sr)))

end Sys2Proof.Machine
end

