-- ==== Sys2Proof/Machine/Reserved.lean ====
section
/-! DEFINITION. The two reserved opcodes (spec/30_encoding.md R57): `raise ReservedOpcode(ir)` (spec/60_exceptions.md R131). -/

namespace Sys2Proof.Machine

/-- Opcode 8 (R131). -/
def execReserved8 (s : State) : StepResult := .next (s.raise .reservedOpcode)

/-- Opcode 13 (R131). -/
def execReserved13 (s : State) : StepResult := .next (s.raise .reservedOpcode)

end Sys2Proof.Machine
end

