-- ==== Sys2Proof/Machine/Trap.lean ====
section
/-! DEFINITION. TRAP and the trap dispatcher (spec/44_trap.md R110 to R120). A routine runs to its end inside the step of its TRAP; where
it has to wait for a character (R119), or where a string goes all the way round memory (R114), the step answers with the routine in
progress in `pending`, and the next step goes on with it (assumptions 12 and 13). -/

namespace Sys2Proof.Machine

/-- The routine in progress is `p`. -/
def State.suspend (s : State) (p : Routine) : State := { s with pending := some p }

/-- The routine has ended. -/
def State.finish (s : State) : State := { s with pending := none }

/-! ### GETC and IN -/

/-- GETC from its `KbdGetc` line on (R112). -/
def State.getcRead (s : State) : State :=
  match s.kbdGetc with
  | (some c, s1) => (s1.writeRegCC .r0 (zext8 c)).finish
  | (none, s1) => s1.suspend .getc

/-- IN up to its `KbdGetc` line: the prompt, then a flush (R115). -/
def State.inpPrompt (s : State) : State := (s.outEmitAll s.params.inPrompt).outFlush

/-- IN from its `KbdGetc` line on: echo, register 0 and flags, newline, flush (R115). -/
def State.inpRead (s : State) : State :=
  match s.kbdGetc with
  | (some c, s1) => (((s1.outEmit c).writeRegCC .r0 (zext8 c)).outEmit s1.params.newline).outFlush.finish
  | (none, s1) => s1.suspend .inp

/-! ### PUTS and PUTSP -/

/-- How many cells a string routine reads in one step: all of memory once. -/
def stringPass : Nat := 65536

/-- The loop of PUTS with address counter `a`, for at most `n` words (R114). -/
def State.putsLoop : Nat → Word → State → State
  | 0, a, s => s.suspend (.puts a)
  | n + 1, a, s =>
    if (s.memRead a).1 = 0x0000 then (s.memRead a).2.outFlush.finish
    else State.putsLoop n (a + 1) ((s.memRead a).2.outEmit (lowByte (s.memRead a).1))

/-- The loop of PUTSP with address counter `a`, for at most `n` words (R116): the first zero byte, low byte first, ends the string. -/
def State.putspLoop : Nat → Word → State → State
  | 0, a, s => s.suspend (.putsp a)
  | n + 1, a, s =>
    if lowByte (s.memRead a).1 = 0x00 then (s.memRead a).2.outFlush.finish
    else if highByte (s.memRead a).1 = 0x00 then ((s.memRead a).2.outEmit (lowByte (s.memRead a).1)).outFlush.finish
    else State.putspLoop n (a + 1) (((s.memRead a).2.outEmit (lowByte (s.memRead a).1)).outEmit (highByte (s.memRead a).1))

/-! ### The routines, entered after the link write -/

/-- GETC (R112). -/
def State.getcRoutine (s : State) : State := s.getcRead

/-- OUT (R113). -/
def State.outRoutine (s : State) : State := (s.outEmit (lowByte (s.reg .r0))).outFlush

/-- PUTS (R114). -/
def State.putsRoutine (s : State) : State := State.putsLoop stringPass (s.reg .r0) s

/-- IN (R115). -/
def State.inpRoutine (s : State) : State := s.inpPrompt.inpRead

/-- PUTSP (R116). -/
def State.putspRoutine (s : State) : State := State.putspLoop stringPass (s.reg .r0) s

/-- HALT (R117): the notice, a flush, then `run <- HALTED`; `fault` stays. -/
def State.haltRoutine (s : State) : State := { (s.outEmitAll s.params.haltNotice).outFlush with run := .halted }

/-- `UnknownVector(vec)` (R118). -/
def State.unknownVector (s : State) : State :=
  match s.params.unknownTrapPolicy with
  | .fault => s.raise .unknownTrap
  | .noop => s

/-- The dispatch of R110. -/
def State.trapDispatch (s : State) (vec : BitVec 8) : State :=
  match vec.toNat with
  | 0x20 => s.getcRoutine
  | 0x21 => s.outRoutine
  | 0x22 => s.putsRoutine
  | 0x23 => s.inpRoutine
  | 0x24 => s.putspRoutine
  | 0x25 => s.haltRoutine
  | _ => s.unknownVector

/-- Go on with a routine in progress (R119). -/
def State.resume (s : State) : Routine → State
  | .getc => s.getcRead
  | .inp => s.inpRead
  | .puts a => State.putsLoop stringPass a s
  | .putsp a => State.putspLoop stringPass a s

/-! ### The instructions -/

/-- TRAP with any vector (R110): the link write, then the dispatch. -/
def execTrap (vec : BitVec 8) (s : State) : StepResult := .next (s.link.trapDispatch vec)

/-- TRAP x20 (R110, R112). -/
def execGetc (s : State) : StepResult := .next s.link.getcRoutine

/-- TRAP x21 (R110, R113). -/
def execOut (s : State) : StepResult := .next s.link.outRoutine

/-- TRAP x22 (R110, R114). -/
def execPuts (s : State) : StepResult := .next s.link.putsRoutine

/-- TRAP x23 (R110, R115). -/
def execInp (s : State) : StepResult := .next s.link.inpRoutine

/-- TRAP x24 (R110, R116). -/
def execPutsp (s : State) : StepResult := .next s.link.putspRoutine

/-- TRAP x25 (R110, R117). -/
def execHalt (s : State) : StepResult := .next s.link.haltRoutine

end Sys2Proof.Machine
end

