-- ==== Sys2Proof/Machine/Step.lean ====
section
/-! DEFINITION. The step (spec/40_fetch_decode_cycle.md R70, R71). -/

namespace Sys2Proof.Machine

/-- One step. HALTED changes nothing (R71, assumption 14); a routine in progress goes on (R119); otherwise fetch, advance `pc`, decode,
execute (R70). -/
def step (s : State) : Host.Outcome State Fault Refusal :=
  match s.run with
  | .halted => .next s
  | .running =>
    match s.pending with
    | some p => .next (s.resume p)
    | none => exec (decode s.fetch.1) s.fetch.2

/-- `s` with the instruction word `w` of `nbits` bits where the next step fetches, and ready to fetch it: running, with no routine in
progress (assumption 25). -/
def State.withFetchWord (s : State) (nbits w : Nat) : State :=
  { s.setCell s.pc (BitVec.ofNat 16 (w % 2 ^ nbits)) with run := .running, pending := none }

end Sys2Proof.Machine
end

