-- ==== Sys2Proof/Machine/HostView.lean ====
section
/-! DEFINITION. What the host reports of the final state (spec/60_exceptions.md R138). -/

namespace Sys2Proof.Machine

/-- The host's exit status from (`run`, `fault`), once the engine is halted (R138). -/
def State.hostStatus (s : State) : Option Nat :=
  match s.run, s.fault with
  | .running, _ => none
  | .halted, .none => some 0
  | .halted, .reservedOpcode => some 1
  | .halted, .unknownTrap => some 1

end Sys2Proof.Machine
end

