-- ==== Sys2Proof/Machine/Loader.lean ====
section
/-! DEFINITION. The loader, the boot interface (spec/70_reset_and_hazards.md R152 to R158): an image is an origin word and words, all
big-endian; it writes memory only. -/

namespace Sys2Proof.Machine

/-- The big-endian word of two bytes, the first one high (R155). -/
def wordOfBytes (hi lo : Byte) : Word := hi ++ lo

/-- Big-endian words to the end of the input; a trailing single byte is ignored (R155, R158). -/
def wordsOfBytes : List Byte → List Word
  | hi :: lo :: rest => wordOfBytes hi lo :: wordsOfBytes rest
  | [_] => []
  | [] => []

/-- The origin and the words of an image; `none` where there is no complete origin (R155, R158). -/
def parseImage : List Byte → Option (Word × List Word)
  | hi :: lo :: rest => some (wordOfBytes hi lo, wordsOfBytes rest)
  | [_] => none
  | [] => none

/-- `load(origin, words)` from address `a` on, an integer: it stops at the end of the address space (R156). -/
def loadWords : Nat → List Word → Memory → Memory
  | _, [], m => m
  | a, w :: ws, m => if 65535 < a then m else loadWords (a + 1) ws (Memory.writeNat m a w)

/-- One image loaded: memory only, no register (R156). -/
def State.loadImage (s : State) (bytes : List Byte) : State :=
  match parseImage bytes with
  | some (origin, words) => { s with mem := loadWords origin.toNat words s.mem }
  | none => s

/-- The images in the order the host gives them; `none` for a source that cannot be opened, after which no run follows (R152, R157,
R158). -/
def State.loadImages : State → List (Option (List Byte)) → Option State
  | s, [] => some s
  | s, some bytes :: rest => State.loadImages (s.loadImage bytes) rest
  | _, none :: _ => none

/-- Boot up to the first step: reset, then the images (R152). -/
def boot (p : Params) (images : List (Option (List Byte))) : Option State := (State.resetWith p).loadImages images

end Sys2Proof.Machine
end

