-- ==== Sys2Proof/Safety.lean ====
section
/-! DEFINITION. The terms claims are stated in: the invariant of the machine, the states a run can reach, what an instruction may write,
what it reads,
and the pseudocode loops of the string routines as relations. -/

namespace Sys2Proof.Machine

/-! ### The invariant -/

/-- Exactly one of N, Z, P is set (spec/10_state.md R16). -/
def oneFlag (c : BitVec 3) : Bool := c == 0b100 || c == 0b010 || c == 0b001

/-- The constraints of spec/00_scope.md R6 on the parameters, and the canonical form of MEM_RESET. -/
def paramsWf (p : Params) : Bool :=
  decide (p.kbsrAddr ≠ p.kbdrAddr) && oneFlag p.condReset && Memory.wf p.memReset

/-- A string routine stands in the middle of an emission batch; nothing else can (R23, R114, R116). -/
def midBatch : Option Routine → Bool
  | some (.puts _) => true
  | some (.putsp _) => true
  | some .getc => false
  | some .inp => false
  | none => false

/-- What holds of every state a run reaches. -/
structure Inv (s : State) : Prop where
  /-- memory is in its canonical form -/
  memWf : Memory.wf s.mem = true
  /-- one condition flag is set (R16) -/
  oneFlag : oneFlag s.cond = true
  /-- a fault cause stands only in a halted machine (R19) -/
  faultHalts : s.fault ≠ .none → s.run = .halted
  /-- a routine in progress stands only in a running machine (R119) -/
  pendingRuns : s.pending ≠ none → s.run = .running
  /-- every emission batch is flushed, but one a string routine is in (R23) -/
  flushed : midBatch s.pending = false → s.unflushed = 0
  /-- the open batch is at the end of `out` -/
  batchInOut : s.unflushed ≤ s.out.length
  /-- the parameters meet R6 -/
  paramsWf : paramsWf s.params = true

/-- The states a run reaches from boot by steps and by what the host may do (R24, R152). -/
inductive Reachable : State → Prop where
  | booted (p : Params) (images : List (Option (List Byte))) (s : State) :
      Sys2Proof.Machine.paramsWf p = true → boot p images = some s → Reachable s
  | typed (s : State) (cs : List Byte) : Reachable s → Reachable (s.hostAppend cs)
  | planned (s : State) (batches : List (List Byte)) : Reachable s → Reachable { s with arrivals := batches }
  | stepped (s t : State) : Reachable s → step s = .next t → Reachable t

/-! ### What an instruction may write -/

/-- The register an instruction writes: the "writes" column of spec/10_state.md R12, the TRAP's own link write with each routine. -/
def mayWriteReg : Instr → Reg → Bool
  | .br _ _, _ => false
  | .addReg dr _ _, r => r == dr
  | .addImm dr _ _, r => r == dr
  | .ld dr _, r => r == dr
  | .st _ _, _ => false
  | .jsrr _, r => r == .r7
  | .jsr _, r => r == .r7
  | .andReg dr _ _, r => r == dr
  | .andImm dr _ _, r => r == dr
  | .ldr dr _ _, r => r == dr
  | .str _ _ _, _ => false
  | .reserved8, _ => false
  | .not dr _, r => r == dr
  | .ldi dr _, r => r == dr
  | .sti _ _, _ => false
  | .jmp _, _ => false
  | .reserved13, _ => false
  | .lea dr _, r => r == dr
  | .trap vec, r => r == .r7 || (r == .r0 && (vec == 0x20 || vec == 0x23))
  | .getc, r => r == .r7 || r == .r0
  | .out, r => r == .r7
  | .puts, r => r == .r7
  | .inp, r => r == .r7 || r == .r0
  | .putsp, r => r == .r7
  | .halt, r => r == .r7

/-- The flag-updating instructions: ADD, AND, NOT, LD, LDI, LDR, LEA, GETC and IN (R16). -/
def mayWriteCond : Instr → Bool
  | .br _ _ => false
  | .addReg _ _ _ => true
  | .addImm _ _ _ => true
  | .ld _ _ => true
  | .st _ _ => false
  | .jsrr _ => false
  | .jsr _ => false
  | .andReg _ _ _ => true
  | .andImm _ _ _ => true
  | .ldr _ _ _ => true
  | .str _ _ _ => false
  | .reserved8 => false
  | .not _ _ => true
  | .ldi _ _ => true
  | .sti _ _ => false
  | .jmp _ => false
  | .reserved13 => false
  | .lea _ _ => true
  | .trap vec => vec == 0x20 || vec == 0x23
  | .getc => true
  | .out => false
  | .puts => false
  | .inp => true
  | .putsp => false
  | .halt => false

/-- The instructions that write `pc` after the advance: BR, JMP, JSR and JSRR (R14). -/
def mayWritePc : Instr → Bool
  | .br _ _ => true
  | .addReg _ _ _ => false
  | .addImm _ _ _ => false
  | .ld _ _ => false
  | .st _ _ => false
  | .jsrr _ => true
  | .jsr _ => true
  | .andReg _ _ _ => false
  | .andImm _ _ _ => false
  | .ldr _ _ _ => false
  | .str _ _ _ => false
  | .reserved8 => false
  | .not _ _ => false
  | .ldi _ _ => false
  | .sti _ _ => false
  | .jmp _ => true
  | .reserved13 => false
  | .lea _ _ => false
  | .trap _ => false
  | .getc => false
  | .out => false
  | .puts => false
  | .inp => false
  | .putsp => false
  | .halt => false

/-- The address an instruction stores to, if it stores (spec/43_load_store.md R104 to R106): for STI the pointer as it was read. -/
def storeAddr (s : State) : Instr → Option Word
  | .st _ off => some (s.pcRel9 off)
  | .sti _ off => some (s.memRead (s.pcRel9 off)).1
  | .str _ base off => some (s.baseOff base off)
  | .br _ _ => none
  | .addReg _ _ _ => none
  | .addImm _ _ _ => none
  | .ld _ _ => none
  | .jsrr _ => none
  | .jsr _ => none
  | .andReg _ _ _ => none
  | .andImm _ _ _ => none
  | .ldr _ _ _ => none
  | .reserved8 => none
  | .not _ _ => none
  | .ldi _ _ => none
  | .jmp _ => none
  | .reserved13 => none
  | .lea _ _ => none
  | .trap _ => none
  | .getc => none
  | .out => none
  | .puts => none
  | .inp => none
  | .putsp => none
  | .halt => none

/-! ### What an instruction reads -/

/-- The words that end a PUTS string (R114). -/
def endsPuts (w : Word) : Bool := w == 0x0000

/-- The words that end a PUTSP string (R116, assumption 16). -/
def endsPutsp (w : Word) : Bool := lowByte w == 0x00 || highByte w == 0x00

/-- A string from address `a` on is read as far as KBSR_ADDR: no cell before it ends the string (R114, R116; the reads run the probe
there: R36, assumption 8). -/
def StringReaches (ends : Word → Bool) (s : State) (a : Word) : Prop :=
  ∀ j, j < (s.params.kbsrAddr - a).toNat → ends (s.cell (a + BitVec.ofNat 16 j)) = false

/-- The instruction makes a `MemRead` of KBSR_ADDR, so that the probe runs (R32, R33, R36). -/
def ReadsStatus (s : State) : Instr → Prop
  | .ld _ off => s.pcRel9 off = s.params.kbsrAddr
  | .ldi _ off => s.pcRel9 off = s.params.kbsrAddr ∨ s.cell (s.pcRel9 off) = s.params.kbsrAddr
  | .ldr _ base off => s.baseOff base off = s.params.kbsrAddr
  | .sti _ off => s.pcRel9 off = s.params.kbsrAddr
  | .puts => StringReaches endsPuts s (s.reg .r0)
  | .putsp => StringReaches endsPutsp s (s.reg .r0)
  | .trap vec =>
    (vec = 0x22 ∧ StringReaches endsPuts s (s.reg .r0)) ∨ (vec = 0x24 ∧ StringReaches endsPutsp s (s.reg .r0))
  | .br _ _ => False
  | .addReg _ _ _ => False
  | .addImm _ _ _ => False
  | .st _ _ => False
  | .jsrr _ => False
  | .jsr _ => False
  | .andReg _ _ _ => False
  | .andImm _ _ _ => False
  | .str _ _ _ => False
  | .reserved8 => False
  | .not _ _ => False
  | .jmp _ => False
  | .reserved13 => False
  | .lea _ _ => False
  | .getc => False
  | .out => False
  | .inp => False
  | .halt => False

/-- The instruction makes a `KbdGetc` (R112, R115). -/
def readsKeyboard : Instr → Bool
  | .getc => true
  | .inp => true
  | .trap vec => vec == 0x20 || vec == 0x23
  | .br _ _ => false
  | .addReg _ _ _ => false
  | .addImm _ _ _ => false
  | .ld _ _ => false
  | .st _ _ => false
  | .jsrr _ => false
  | .jsr _ => false
  | .andReg _ _ _ => false
  | .andImm _ _ _ => false
  | .ldr _ _ _ => false
  | .str _ _ _ => false
  | .reserved8 => false
  | .not _ _ => false
  | .ldi _ _ => false
  | .sti _ _ => false
  | .jmp _ => false
  | .reserved13 => false
  | .lea _ _ => false
  | .out => false
  | .puts => false
  | .putsp => false
  | .halt => false

/-- A routine in progress makes a `KbdGetc`, or a `MemRead` of KBSR_ADDR. -/
def routineTakes (s : State) : Routine → Prop
  | .getc => True
  | .inp => True
  | .puts a => StringReaches endsPuts s a
  | .putsp a => StringReaches endsPutsp s a

/-- The step from `s` makes a `KbdPoll`, by a `MemRead` of KBSR_ADDR for its fetch or its instruction, or a `KbdGetc` (R22). -/
def TakesInput (s : State) : Prop :=
  s.run = .running ∧
    match s.pending with
    | some p => routineTakes s p
    | none => s.pc = s.params.kbsrAddr ∨ ReadsStatus s.fetch.2 (decode s.fetch.1) ∨ readsKeyboard (decode s.fetch.1) = true

/-! ### The effects statements name -/

/-- `t` is `s` after the flag-updating write `x[dr] <- v; setcc(v)`: that register, the flags, and nothing else. -/
def WroteRegCC (s t : State) (dr : Reg) (v : Word) : Prop :=
  t.reg dr = v ∧ (∀ r, r ≠ dr → t.reg r = s.reg r) ∧ t.cond = setcc v ∧ t = { s with regs := t.regs, cond := t.cond }

/-- `t` is `s` after `M[a] <- v`: that cell, every other cell as before, and nothing else. -/
def WroteCell (s t : State) (a v : Word) : Prop :=
  t.cell a = v ∧ (∀ b, b ≠ a → t.cell b = s.cell b) ∧ t = { s with mem := t.mem }

/-- `t` is `s` after `x[7] <- pc` and `pc <- target`, and nothing else. -/
def Called (s t : State) (target : Word) : Prop :=
  t.reg .r7 = s.pc ∧ (∀ r, r ≠ .r7 → t.reg r = s.reg r) ∧ t.pc = target ∧ t = { s with regs := t.regs, pc := t.pc }

/-! ### The loops of PUTS and PUTSP, as the pseudocode of spec/44_trap.md writes them -/

/-- The loop of R114 ends: with address counter `a` in state `s` it reads `n + 1` cells and leaves the loop in state `t`. -/
inductive PutsLoopEnds : Nat → Word → State → State → Prop where
  | stop (a : Word) (s t : State) : s.memRead a = (0x0000, t) → PutsLoopEnds 0 a s t
  | emit (n : Nat) (a w : Word) (s u t : State) : s.memRead a = (w, u) → w ≠ 0x0000 →
      PutsLoopEnds n (a + 1) (u.outEmit (lowByte w)) t → PutsLoopEnds (n + 1) a s t

/-- The loop of R116 ends: with address counter `a` in state `s` it reads `n + 1` cells and leaves the loop in state `t`. -/
inductive PutspLoopEnds : Nat → Word → State → State → Prop where
  | stopLow (a w : Word) (s t : State) : s.memRead a = (w, t) → lowByte w = 0x00 → PutspLoopEnds 0 a s t
  | stopHigh (a w : Word) (s u : State) : s.memRead a = (w, u) → lowByte w ≠ 0x00 → highByte w = 0x00 →
      PutspLoopEnds 0 a s (u.outEmit (lowByte w))
  | emit (n : Nat) (a w : Word) (s u t : State) : s.memRead a = (w, u) → lowByte w ≠ 0x00 → highByte w ≠ 0x00 →
      PutspLoopEnds n (a + 1) ((u.outEmit (lowByte w)).outEmit (highByte w)) t → PutspLoopEnds (n + 1) a s t

end Sys2Proof.Machine
end

