-- ==== Sys2Proof/Certificates/Slice0/Obligations.lean ====
section
/-! DEFINITION. The statements for the provers. Each docstring names the rule of spec/ it formalises; where a clause rests on the spec's
own decision (D<n> of spec/92_eei_decisions.md) or on this model's choice, it names that and the assumption log's entry. -/

open Sys2Proof Sys2Proof.Machine

/-! ### Encoding (spec/30_encoding.md) -/

/-- R61, R62: decoding the word of a well-formed instruction gives it back, at every value of every operand. (Opcode numbers and
positions: D1, D2, assumption 3.) -/
def Obligations.DecodeEncodeRoundTrip : Prop :=
  ∀ i : Instr, i.WellFormed = true → decode (encode i) = i

/-- R58, R61: every word decodes to a well-formed instruction, and encoding that gives the word back on every bit its format uses.
(Ignored bits: D3, assumption 5.) -/
def Obligations.DecodedWordEncodesBack : Prop :=
  ∀ w : Word, (decode w).WellFormed = true ∧
    encode (decode w) &&& ~~~(ignoredBits (decode w)) = w &&& ~~~(ignoredBits (decode w))

/-- R57, R58: words that differ only in bits the format ignores are the same instruction. (D3, assumption 5.) -/
def Obligations.IgnoredBitsDoNotMatter : Prop :=
  ∀ w v : Word, w &&& ~~~(ignoredBits (decode w)) = v &&& ~~~(ignoredBits (decode w)) → decode v = decode w

/-- R61 and the opening of spec/30_encoding.md: a word matches the row of the instruction it decodes to, and no row of the table
besides, but that the six defined trap vectors also match the TRAP row they refine. (D1, D2, assumption 3.) -/
def Obligations.EachWordMatchesOneRow : Prop :=
  ∀ w : Word, w &&& rowMask (decode w) = rowMatch (decode w) ∧
    ∀ i : Instr, w &&& rowMask i = rowMatch i →
      (rowMask i = rowMask (decode w) ∧ rowMatch i = rowMatch (decode w)) ∨
      (rowMask i = 0xF000 ∧ rowMatch i = 0xF000 ∧ rowMask (decode w) = 0xF0FF)

/-- spec/95_test_vectors.md 2.2 to 2.5: words of every family decode as the spec lists them. (Numbers and positions: D1, D2, assumption 3.
0x14DC, 0x9280, 0x463F, 0xCFFF and 0xFF25 hold bits their formats ignore: R58, the spec's decision D3, U10, assumption 5.) -/
def Obligations.SpecWordsDecode : Prop :=
  decode 0x0403 = .br 0b010 3 ∧ decode 0x14DC = .addReg .r2 .r3 .r4 ∧ decode 0x127F = .addImm .r1 .r1 0x1F ∧
  decode 0x9280 = .not .r1 .r2 ∧ decode 0x463F = .jsrr .r0 ∧ decode 0x4C00 = .jsr 0x400 ∧ decode 0xCFFF = .jmp .r7 ∧
  decode 0x647F = .ldr .r2 .r1 0x3F ∧ decode 0xBA06 = .sti .r5 6 ∧ decode 0x8FFF = .reserved8 ∧ decode 0xD000 = .reserved13 ∧
  decode 0xFF25 = .halt ∧ decode 0xF026 = .trap 0x26

/-! ### The step (spec/40_fetch_decode_cycle.md) -/

/-- R70: one step fetches at `pc` through `MemRead`, advances `pc` by one modulo 65536, decodes and executes. (That the fetch goes
through `MemRead` at the keyboard status address too: D7, assumption 8.) -/
def Obligations.StepRunsFetchedInstruction : Prop :=
  ∀ s : State, s.run = .running → s.pending = none →
    step s = exec (decode (s.memRead s.pc).1) { (s.memRead s.pc).2 with pc := s.pc + 1 }

/-- R70, R62: the word of a well-formed instruction placed at `pc`, away from the keyboard status address, is the instruction that runs,
and `pc` is past it when it runs. -/
def Obligations.PlacedInstructionRuns : Prop :=
  ∀ (s : State) (i : Instr), i.WellFormed = true → Memory.wf s.mem = true → s.pc ≠ s.params.kbsrAddr →
    step (s.withFetchWord 16 (encode i).toNat) =
      exec i { s.withFetchWord 16 (encode i).toNat with pc := s.pc + 1 }

/-- R71: in HALTED nothing is fetched and no state changes. (The model answers the same state: assumption 14.) -/
def Obligations.HaltedMachineStays : Prop :=
  ∀ s : State, s.run = .halted → step s = .next s

/-- Every step from every state answers a next state. This totality is the model's own: in HALTED R71 has no step (assumption 14), while
GETC or IN waits R119 does not complete it (12), nor does R114 for a string without an end (13), and the two faults of R130, beside which
R146 has none, are next states (D15, assumption 19). -/
def Obligations.EveryStepAnswersNext : Prop :=
  ∀ s : State, ∃ t, step s = .next t

/-! ### Flags -/

/-- R76: after `setcc(v)` N says that v is negative as two's complement, Z that it is zero, P that it is positive, and exactly one is
set. (Which bit of `cond` is which: D4, assumption 4.) -/
def Obligations.SetccReportsSign : Prop :=
  ∀ (s : State) (v : Word),
    (({ s with cond := setcc v } : State).flagN = true ↔ v.toInt < 0) ∧
    (({ s with cond := setcc v } : State).flagZ = true ↔ v.toInt = 0) ∧
    (({ s with cond := setcc v } : State).flagP = true ↔ 0 < v.toInt) ∧
    oneFlag (setcc v) = true

/-! ### Operate instructions (spec/41_operate.md) -/

/-- R80: ADD writes the 16-bit sum of the first source and the second operand to DR and sets the flags from it; nothing else changes. -/
def Obligations.AddWritesSum : Prop :=
  ∀ (s : State) (dr sr1 sr2 : Reg) (imm : BitVec 5),
    (∃ t, exec (.addReg dr sr1 sr2) s = .next t ∧ WroteRegCC s t dr (s.reg sr1 + s.reg sr2)) ∧
    (∃ t, exec (.addImm dr sr1 imm) s = .next t ∧ WroteRegCC s t dr (s.reg sr1 + imm.signExtend 16))

/-- R81: AND writes the bitwise AND of the first source and the second operand to DR and sets the flags from it; nothing else changes.
(The width of AND's immediate: N7, assumption 3.) -/
def Obligations.AndWritesConjunction : Prop :=
  ∀ (s : State) (dr sr1 sr2 : Reg) (imm : BitVec 5),
    (∃ t, exec (.andReg dr sr1 sr2) s = .next t ∧ WroteRegCC s t dr (s.reg sr1 &&& s.reg sr2)) ∧
    (∃ t, exec (.andImm dr sr1 imm) s = .next t ∧ WroteRegCC s t dr (s.reg sr1 &&& imm.signExtend 16))

/-- R82: NOT writes the bitwise complement of SR to DR and sets the flags from it; nothing else changes. -/
def Obligations.NotWritesComplement : Prop :=
  ∀ (s : State) (dr sr : Reg), ∃ t, exec (.not dr sr) s = .next t ∧ WroteRegCC s t dr (~~~(s.reg sr))

/-- R77, R83: the result of ADD in either mode, read as a number, is the sum of its operands modulo 65536. R82: NOT's is 65535 less its
operand. (The width of the immediate is the document's: R51.) -/
def Obligations.OperateResultsWrap : Prop :=
  ∀ (s : State) (dr sr1 sr2 : Reg) (imm : BitVec 5),
    (∃ t, exec (.addReg dr sr1 sr2) s = .next t ∧ (t.reg dr).toNat = ((s.reg sr1).toNat + (s.reg sr2).toNat) % 65536) ∧
    (∃ t, exec (.addImm dr sr1 imm) s = .next t ∧
      (t.reg dr).toNat = ((s.reg sr1).toNat + (imm.signExtend 16).toNat) % 65536) ∧
    (∃ t, exec (.not dr sr1) s = .next t ∧ (t.reg dr).toNat = 65535 - (s.reg sr1).toNat)

/-! ### Control (spec/42_control.md) -/

/-- R90: BR adds the sign-extended offset to the advanced `pc` exactly when the mask and `cond` have a common bit; nothing else changes. -/
def Obligations.BranchFollowsMask : Prop :=
  ∀ (s : State) (mask : BitVec 3) (off : BitVec 9),
    exec (.br mask off) s = .next (if mask &&& s.cond ≠ 0 then { s with pc := s.pc + off.signExtend 16 } else s)

/-- R91: bit 2 of the mask tests N, bit 1 tests Z, bit 0 tests P; mask 000 never branches; mask 111 always does where one flag is set.
(The pairing: D4, assumption 4.) -/
def Obligations.BranchDecisionTable : Prop :=
  ∀ (s : State) (mask : BitVec 3) (off : BitVec 9),
    exec (.br mask off) s = .next
      (if (mask.getLsbD 2 && s.flagN) || (mask.getLsbD 1 && s.flagZ) || (mask.getLsbD 0 && s.flagP)
       then { s with pc := s.pc + off.signExtend 16 } else s) ∧
    exec (.br 0b000 off) s = .next s ∧
    (oneFlag s.cond = true → exec (.br 0b111 off) s = .next { s with pc := s.pc + off.signExtend 16 })

/-- R92: JMP sets `pc` to the base register; nothing else changes. -/
def Obligations.JumpGoesToRegister : Prop :=
  ∀ (s : State) (base : Reg), exec (.jmp base) s = .next { s with pc := s.reg base }

/-- R93: JSR writes the advanced `pc` to register 7 and adds the sign-extended 11-bit offset to `pc`; nothing else changes. -/
def Obligations.JsrLinksAndJumps : Prop :=
  ∀ (s : State) (off : BitVec 11), ∃ t, exec (.jsr off) s = .next t ∧ Called s t (s.pc + off.signExtend 16)

/-- R94: JSRR writes the advanced `pc` to register 7, then jumps to the base register; so `JSRR R7` falls through. (The order: the
spec's decision D17, assumption 20.) -/
def Obligations.JsrrLinksThenJumps : Prop :=
  ∀ (s : State) (base : Reg), ∃ t, exec (.jsrr base) s = .next t ∧
    Called s t (if base = .r7 then s.pc else s.reg base)

/-- R95: a JMP through register 7 after a JSR, from any state that still has the link in register 7, returns to the cell after the JSR. -/
def Obligations.JumpThroughLinkReturns : Prop :=
  ∀ (s : State) (off : BitVec 11), ∃ t, exec (.jsr off) s = .next t ∧
    ∀ u : State, u.reg .r7 = t.reg .r7 → exec (.jmp .r7) u = .next { u with pc := s.pc }

/-! ### Loads and stores (spec/43_load_store.md) -/

/-- R100, R102: LD and LDR read the cell at the effective address through `MemRead`, write it to DR and set the flags from it; nothing
else changes but what that read does. (Read path: D7, assumption 8.) -/
def Obligations.LoadsWriteReadWord : Prop :=
  ∀ (s : State) (dr base : Reg) (off9 : BitVec 9) (off6 : BitVec 6),
    (∃ t, exec (.ld dr off9) s = .next t ∧
      WroteRegCC (s.memRead (s.pc + off9.signExtend 16)).2 t dr (s.memRead (s.pc + off9.signExtend 16)).1) ∧
    (∃ t, exec (.ldr dr base off6) s = .next t ∧
      WroteRegCC (s.memRead (s.reg base + off6.signExtend 16)).2 t dr (s.memRead (s.reg base + off6.signExtend 16)).1)

/-- R101: LDI reads the pointer, then the cell the pointer names, writes that to DR and sets the flags from it; nothing else changes but
what the two reads do. Where neither read is of the keyboard status address the result is memory[memory[PC + offset]]. (Read path: D7,
assumption 8; the offset's width: N7, assumption 3.) -/
def Obligations.LdiReadsThroughPointer : Prop :=
  ∀ (s : State) (dr : Reg) (off : BitVec 9),
    (∃ t, exec (.ldi dr off) s = .next t ∧
      WroteRegCC ((s.memRead (s.pc + off.signExtend 16)).2.memRead (s.memRead (s.pc + off.signExtend 16)).1).2 t dr
        ((s.memRead (s.pc + off.signExtend 16)).2.memRead (s.memRead (s.pc + off.signExtend 16)).1).1) ∧
    (s.pc + off.signExtend 16 ≠ s.params.kbsrAddr → s.cell (s.pc + off.signExtend 16) ≠ s.params.kbsrAddr →
      ∃ t, exec (.ldi dr off) s = .next t ∧ WroteRegCC s t dr (s.cell (s.cell (s.pc + off.signExtend 16))))

/-- R103: LEA writes the advanced `pc` plus the sign-extended offset to DR and sets the flags from it; memory is not read, and nothing
else changes. -/
def Obligations.LeaWritesAddress : Prop :=
  ∀ (s : State) (dr : Reg) (off : BitVec 9), ∃ t, exec (.lea dr off) s = .next t ∧
    WroteRegCC s t dr (s.pc + off.signExtend 16)

/-- R104, R106: ST and STR write SR to the cell at the effective address, the device addresses included; every other cell reads as
before, and nothing else changes. (The widths of the two offsets: N7, assumption 3.) -/
def Obligations.StoresWriteOneCell : Prop :=
  ∀ (s : State) (sr base : Reg) (off9 : BitVec 9) (off6 : BitVec 6), Memory.wf s.mem = true →
    (∃ t, exec (.st sr off9) s = .next t ∧ WroteCell s t (s.pc + off9.signExtend 16) (s.reg sr)) ∧
    (∃ t, exec (.str sr base off6) s = .next t ∧ WroteCell s t (s.reg base + off6.signExtend 16) (s.reg sr))

/-- R105: STI reads the pointer through `MemRead`, then writes SR to the cell the pointer names; after that read every other cell reads
as before, and nothing else changes. (Read path: D7, assumption 8; the offset's width: N7, assumption 3.) -/
def Obligations.StiStoresThroughPointer : Prop :=
  ∀ (s : State) (sr : Reg) (off : BitVec 9), Memory.wf s.mem = true →
    ∃ t, exec (.sti sr off) s = .next t ∧
      WroteCell (s.memRead (s.pc + off.signExtend 16)).2 t (s.memRead (s.pc + off.signExtend 16)).1 (s.reg sr)

/-- R45: a word stored where the next fetch is made is the word the next step runs (`ST SR,+0`). -/
def Obligations.StoredWordIsFetchedNext : Prop :=
  ∀ (s : State) (sr : Reg), Memory.wf s.mem = true → s.run = .running → s.pending = none → s.pc ≠ s.params.kbsrAddr →
    ∃ t, exec (.st sr 0) s = .next t ∧ step t = exec (decode (s.reg sr)) { t with pc := s.pc + 1 }

/-! ### Memory and the keyboard cells (spec/20_memory.md) -/

/-- R32, R34: a read of any address but KBSR_ADDR, KBDR_ADDR included, returns the stored word and changes nothing. -/
def Obligations.PlainReadsArePure : Prop :=
  ∀ (s : State) (a : Word), a ≠ s.params.kbsrAddr → s.memRead a = (s.cell a, s)

/-- R33: a read of KBSR_ADDR with a character pending takes it, sets bit 15 of the status cell, keeps bits 14..0, stages the character
zero-extended in the data cell, and returns the status cell; with none pending it clears bit 15 and leaves the data cell. No other cell
and no other state changes. (Bits 14..0, the width and the taking: D6, D8, D9, assumptions 7, 9, 10; `arrivals`: assumption 11.) -/
def Obligations.StatusReadPollsKeyboard : Prop :=
  ∀ s : State, Memory.wf s.mem = true → s.params.kbsrAddr ≠ s.params.kbdrAddr →
    (∀ c q, s.kbdQ ++ s.arrivals.headD [] = c :: q →
      ∃ t, s.memRead s.params.kbsrAddr = (s.cell s.params.kbsrAddr ||| 0x8000, t) ∧
        t.cell s.params.kbsrAddr = s.cell s.params.kbsrAddr ||| 0x8000 ∧ t.cell s.params.kbdrAddr = c.setWidth 16 ∧
        (∀ a, a ≠ s.params.kbsrAddr → a ≠ s.params.kbdrAddr → t.cell a = s.cell a) ∧
        t = { s with mem := t.mem, kbdQ := q, arrivals := s.arrivals.tail }) ∧
    (s.kbdQ ++ s.arrivals.headD [] = [] →
      ∃ t, s.memRead s.params.kbsrAddr = (s.cell s.params.kbsrAddr &&& 0x7FFF, t) ∧
        t.cell s.params.kbsrAddr = s.cell s.params.kbsrAddr &&& 0x7FFF ∧
        (∀ a, a ≠ s.params.kbsrAddr → t.cell a = s.cell a) ∧
        t = { s with mem := t.mem, kbdQ := [], arrivals := s.arrivals.tail })

/-- R101 through R33, the polling idiom: LDI through a pointer to KBSR_ADDR, with a character pending, loads a word with bit 15 set, so
N is set, and the character is then in the data cell. (D6, D8, D9, assumptions 7, 9, 10.) -/
def Obligations.LdiPollsKeyboard : Prop :=
  ∀ (s : State) (dr : Reg) (off : BitVec 9) (c : Byte) (q : List Byte),
    Memory.wf s.mem = true → s.params.kbsrAddr ≠ s.params.kbdrAddr → s.pc + off.signExtend 16 ≠ s.params.kbsrAddr →
    s.cell (s.pc + off.signExtend 16) = s.params.kbsrAddr → s.kbdQ ++ s.arrivals.headD [] = c :: q →
      ∃ t, exec (.ldi dr off) s = .next t ∧ t.reg dr = s.cell s.params.kbsrAddr ||| 0x8000 ∧ t.flagN = true ∧
        t.cell s.params.kbdrAddr = c.setWidth 16 ∧ t.kbdQ = q

/-! ### TRAP (spec/44_trap.md) -/

/-- R110: TRAP with one of the six defined vectors is the named routine's instruction, from every state. -/
def Obligations.TrapSelectsRoutine : Prop :=
  ∀ s : State, exec (.trap 0x20) s = exec .getc s ∧ exec (.trap 0x21) s = exec .out s ∧ exec (.trap 0x22) s = exec .puts s ∧
    exec (.trap 0x23) s = exec .inp s ∧ exec (.trap 0x24) s = exec .putsp s ∧ exec (.trap 0x25) s = exec .halt s

/-- R112: GETC with a character pending links, takes the character, writes it zero-extended to register 0 and sets the flags from it;
nothing is emitted and nothing else changes. (Width and queue: D8, D9, assumptions 9 to 11.) -/
def Obligations.GetcReadsCharacter : Prop :=
  ∀ (s : State) (c : Byte) (q : List Byte), s.kbdQ ++ s.arrivals.headD [] = c :: q →
    ∃ t, exec .getc s = .next t ∧ t.reg .r7 = s.pc ∧ t.reg .r0 = c.setWidth 16 ∧
      (∀ r, r ≠ .r0 → r ≠ .r7 → t.reg r = s.reg r) ∧ t.cond = setcc (c.setWidth 16) ∧
      t = { s with regs := t.regs, cond := t.cond, kbdQ := q, arrivals := s.arrivals.tail, pending := none }

/-- R115: IN with a character pending links, emits the prompt, takes the character, echoes it, writes it zero-extended to register 0, sets
the flags from it and emits the newline; nothing else changes. (Prompt and newline are parameters: D12, assumption 17; D8, D9.) -/
def Obligations.InPromptsAndEchoes : Prop :=
  ∀ (s : State) (c : Byte) (q : List Byte), s.kbdQ ++ s.arrivals.headD [] = c :: q →
    ∃ t, exec .inp s = .next t ∧ t.reg .r7 = s.pc ∧ t.reg .r0 = c.setWidth 16 ∧
      (∀ r, r ≠ .r0 → r ≠ .r7 → t.reg r = s.reg r) ∧ t.cond = setcc (c.setWidth 16) ∧
      t.out = s.out ++ s.params.inPrompt ++ [c, s.params.newline] ∧
      t = { s with regs := t.regs, cond := t.cond, kbdQ := q, arrivals := s.arrivals.tail, out := t.out, unflushed := 0,
                   pending := none }

/-- R119: with no character pending GETC and IN wait; the link value is in register 7 and, for IN, the prompt is in `out`, and nothing
else has changed. (The wait is `pending`: assumption 12.) -/
def Obligations.GetcAndInWait : Prop :=
  ∀ s : State, s.kbdQ ++ s.arrivals.headD [] = [] →
    (∃ t, exec .getc s = .next t ∧ t.reg .r7 = s.pc ∧ (∀ r, r ≠ .r7 → t.reg r = s.reg r) ∧
      t = { s with regs := t.regs, arrivals := s.arrivals.tail, pending := some .getc }) ∧
    (∃ t, exec .inp s = .next t ∧ t.reg .r7 = s.pc ∧ (∀ r, r ≠ .r7 → t.reg r = s.reg r) ∧
      t = { s with regs := t.regs, arrivals := s.arrivals.tail, out := s.out ++ s.params.inPrompt, unflushed := 0,
                   pending := some .inp })

/-- R119: a waiting GETC or IN stays as it is while no character comes; when the host appends one, the next step ends the routine as if
the character had been there from the start. (The wait is `pending`: assumption 12.) -/
def Obligations.WaitEndsWhenCharacterComes : Prop :=
  ∀ (s : State) (c : Byte) (q : List Byte) (i : Instr), i = .getc ∨ i = .inp → s.run = .running → s.kbdQ = [] → s.arrivals = [] →
    ∃ t, exec i s = .next t ∧ step t = .next t ∧ step (t.hostAppend (c :: q)) = exec i (s.hostAppend (c :: q))

/-- R113: OUT links and emits the low byte of register 0, then flushes; nothing else changes. -/
def Obligations.OutEmitsLowByte : Prop :=
  ∀ s : State, ∃ t, exec .out s = .next t ∧ t.reg .r7 = s.pc ∧ (∀ r, r ≠ .r7 → t.reg r = s.reg r) ∧
    t = { s with regs := t.regs, out := s.out ++ [(s.reg .r0).setWidth 8], unflushed := 0 }

/-- R114: PUTS over a string of non-zero words that ends in a zero word, away from the keyboard status address, links and emits the low
byte of each word in order; nothing else changes. (Low byte and wrapping addresses: D10, D18, assumptions 15, 21.) -/
def Obligations.PutsEmitsString : Prop :=
  ∀ (s : State) (ws : List Word), ws.length < 65536 → (∀ w ∈ ws, w ≠ 0) →
    (∀ k, k ≤ ws.length → s.reg .r0 + BitVec.ofNat 16 k ≠ s.params.kbsrAddr) →
    (∀ k (h : k < ws.length), s.cell (s.reg .r0 + BitVec.ofNat 16 k) = ws[k]) →
    s.cell (s.reg .r0 + BitVec.ofNat 16 ws.length) = 0 →
    ∃ t, exec .puts s = .next t ∧ t.reg .r7 = s.pc ∧ (∀ r, r ≠ .r7 → t.reg r = s.reg r) ∧
      t = { s with regs := t.regs, out := s.out ++ ws.map (fun w => w.setWidth 8), unflushed := 0, pending := none }

/-- R116: PUTSP over words with two non-zero bytes and a last word with a zero byte, away from the keyboard status address, links and
emits the bytes up to the first zero byte, low byte first; nothing else changes. (D11, D18, assumptions 16, 21.) -/
def Obligations.PutspEmitsPackedString : Prop :=
  ∀ (s : State) (ws : List Word) (last : Word), ws.length < 65536 → (∀ w ∈ ws, lowByte w ≠ 0 ∧ highByte w ≠ 0) →
    (lowByte last = 0 ∨ highByte last = 0) →
    (∀ k, k ≤ ws.length → s.reg .r0 + BitVec.ofNat 16 k ≠ s.params.kbsrAddr) →
    (∀ k (h : k < ws.length), s.cell (s.reg .r0 + BitVec.ofNat 16 k) = ws[k]) →
    s.cell (s.reg .r0 + BitVec.ofNat 16 ws.length) = last →
    ∃ t, exec .putsp s = .next t ∧ t.reg .r7 = s.pc ∧ (∀ r, r ≠ .r7 → t.reg r = s.reg r) ∧
      t = { s with regs := t.regs, unflushed := 0, pending := none,
                   out := s.out ++ ws.flatMap (fun w => [lowByte w, highByte w]) ++
                     (if lowByte last = 0 then [] else [lowByte last]) }

/-- R114, whatever the string crosses: where the pseudocode's loop ends within all of memory once, PUTS ends in that state, flushed; where
it does not, the routine is in progress at the same address. (The reads run the probe: D7, U5, assumption 8; the low byte is emitted: D10,
U7, assumption 15; the address wraps: D18, U9, assumption 21. The second clause is the model's: assumption 13.) -/
def Obligations.PutsFollowsItsLoop : Prop :=
  ∀ s : State,
    (∀ n u, n < 65536 → PutsLoopEnds n (s.reg .r0) s.link u →
      exec .puts s = .next { u with unflushed := 0, pending := none }) ∧
    ((∀ n u, n < 65536 → ¬ PutsLoopEnds n (s.reg .r0) s.link u) →
      ∃ t, exec .puts s = .next t ∧ t.pending = some (.puts (s.reg .r0)))

/-- R116, whatever the string crosses: as `PutsFollowsItsLoop`, for PUTSP. (The reads run the probe: D7, U5, assumption 8; the first zero
byte ends the string: D11, U8, assumption 16; the address wraps: D18, U9, assumption 21. The second clause is the model's: assumption 13.) -/
def Obligations.PutspFollowsItsLoop : Prop :=
  ∀ s : State,
    (∀ n u, n < 65536 → PutspLoopEnds n (s.reg .r0) s.link u →
      exec .putsp s = .next { u with unflushed := 0, pending := none }) ∧
    ((∀ n u, n < 65536 → ¬ PutspLoopEnds n (s.reg .r0) s.link u) →
      ∃ t, exec .putsp s = .next t ∧ t.pending = some (.putsp (s.reg .r0)))

/-- R114: however many times the string goes round memory, where the pseudocode's loop ends after reading `n + 1` cells the machine
reaches that state, flushed, `n / 65536` steps after the PUTS. (D7, assumption 8; D10, assumption 15; D18, assumption 21. The steps are
the model's: assumption 13.) -/
def Obligations.PutsEndsAfterItsPasses : Prop :=
  ∀ (s u : State) (n : Nat), s.run = .running → PutsLoopEnds n (s.reg .r0) s.link u →
    ∃ t, exec .puts s = .next t ∧
      Sys2Proof.core.run (n / 65536) t = .next ({ u with unflushed := 0, pending := none } : State)

/-- R117: HALT links, emits the halt notice, flushes and halts the engine; `fault`, memory, `cond` and every other register stay. (The
notice is a parameter: D13, assumption 17.) -/
def Obligations.HaltEndsTheRun : Prop :=
  ∀ s : State, ∃ t, exec .halt s = .next t ∧ t.reg .r7 = s.pc ∧ (∀ r, r ≠ .r7 → t.reg r = s.reg r) ∧
    t = { s with regs := t.regs, out := s.out ++ s.params.haltNotice, unflushed := 0, run := .halted }

/-- R118, R132: TRAP with any other vector links, and then, by the policy, raises UnknownTrap or does nothing; nothing else changes. (The
default policy is the spec's decision D14, assumption 18.) -/
def Obligations.UnknownTrapFollowsPolicy : Prop :=
  ∀ (s : State) (vec : BitVec 8), definedVector vec = false →
    ∃ t, exec (.trap vec) s = .next t ∧ t.reg .r7 = s.pc ∧ (∀ r, r ≠ .r7 → t.reg r = s.reg r) ∧
      (s.params.unknownTrapPolicy = .fault → t = { s with regs := t.regs, fault := .unknownTrap, run := .halted }) ∧
      (s.params.unknownTrapPolicy = .noop → t = { s with regs := t.regs })

/-- R57, R131: every word with opcode 8 or 13 raises ReservedOpcode, which records the cause and halts and changes nothing else; a word
with another opcode is never a reserved one. (The cause register is the spec's decision D15, assumption 19.) -/
def Obligations.ReservedOpcodesFault : Prop :=
  (∀ s : State, exec .reserved8 s = .next { s with fault := .reservedOpcode, run := .halted } ∧
    exec .reserved13 s = .next { s with fault := .reservedOpcode, run := .halted }) ∧
  ∀ w : Word,
    (w.extractLsb' 12 4 = 8#4 ∨ w.extractLsb' 12 4 = 13#4 →
      ∀ s : State, exec (decode w) s = .next { s with fault := .reservedOpcode, run := .halted }) ∧
    (w.extractLsb' 12 4 ≠ 8#4 → w.extractLsb' 12 4 ≠ 13#4 → decode w ≠ .reserved8 ∧ decode w ≠ .reserved13)

/-! ### Rules over all instructions -/

/-- R12: an instruction writes no register but those its row of the table names, the link register of TRAP included. -/
def Obligations.OnlyNamedRegistersChange : Prop :=
  ∀ (i : Instr) (s t : State) (r : Reg), exec i s = .next t → mayWriteReg i r = false → t.reg r = s.reg r

/-- R16: an instruction that is not flag-updating leaves `cond`; a flag-updating one leaves exactly one flag set, unless it is a GETC or
IN that still waits and has not written it. (The wait is `pending`: assumption 12.) -/
def Obligations.OnlyFlagUpdatersChangeCond : Prop :=
  ∀ (i : Instr) (s t : State), exec i s = .next t →
    (mayWriteCond i = false → t.cond = s.cond) ∧
    (mayWriteCond i = true → oneFlag t.cond = true ∨ (t.cond = s.cond ∧ (t.pending = some .getc ∨ t.pending = some .inp)))

/-- R14: each step advances `pc` by one modulo 65536, and only BR, JMP, JSR and JSRR overwrite it. A step that goes on with a routine
leaves it (assumption 12). -/
def Obligations.OnlyControlWritesPc : Prop :=
  ∀ s t : State, s.run = .running → step s = .next t →
    (s.pending = none → mayWritePc (decode (s.memRead s.pc).1) = false → t.pc = s.pc + 1) ∧
    (s.pending ≠ none → t.pc = s.pc)

/-- R35, R36, R120: an instruction changes no cell but the one it stores to, at the address its own form computes, and, through a read of
KBSR_ADDR, the two keyboard cells; a form that makes no `MemRead` of KBSR_ADDR changes neither of those but by its store. (Which reads run
the probe: D7, assumption 8.) -/
def Obligations.OnlyStoresAndProbeWriteMemory : Prop :=
  ∀ (i : Instr) (s t : State) (a : Word), exec i s = .next t → storeAddr s i ≠ some a →
    (a ≠ s.params.kbsrAddr → a ≠ s.params.kbdrAddr → t.cell a = s.cell a) ∧
    (¬ ReadsStatus s i → t.cell a = s.cell a)

/-- R18, R79: a running machine halts in exactly three ways: HALT, with `fault` as it was; a reserved opcode; a TRAP with an undefined
vector under the fault policy. -/
def Obligations.OnlyThreeWaysToHalt : Prop :=
  ∀ s t : State, s.run = .running → step s = .next t → t.run = .halted →
    s.pending = none ∧
    ((decode (s.memRead s.pc).1 = .halt ∧ t.fault = s.fault) ∨
     ((decode (s.memRead s.pc).1 = .reserved8 ∨ decode (s.memRead s.pc).1 = .reserved13) ∧ t.fault = .reservedOpcode) ∨
     (∃ vec, decode (s.memRead s.pc).1 = .trap vec ∧ definedVector vec = false ∧ s.params.unknownTrapPolicy = .fault ∧
       t.fault = .unknownTrap))

/-- R27: the parameters are constants of a run. (That they stand in State is the model's choice: assumption 1.) -/
def Obligations.ParametersNeverChange : Prop :=
  ∀ s t : State, step s = .next t → t.params = s.params

/-- R23: `out` only grows. -/
def Obligations.OutputOnlyGrows : Prop :=
  ∀ s t : State, step s = .next t → s.out <+: t.out

/-- R23: the CORE never reads `out`: with another `out` the step does the same and appends the same bytes. -/
def Obligations.OutputIsNeverRead : Prop :=
  ∀ (s t : State) (o : List Byte), step s = .next t →
    ∃ bytes, t.out = s.out ++ bytes ∧ step { s with out := o } = .next { t with out := o ++ bytes }

/-- R22: a poll or a read removes from the head of the input exactly the character it answers, and nothing where it answers none; over a
step the input after is what is left of the input before, in the same order, and all of it where the step makes no `MemRead` of KBSR_ADDR
and no `KbdGetc`. (The queue: D9, assumption 10; which reads poll: D7, assumption 8; `arrivals`: assumption 11.) -/
def Obligations.KeyboardIsFirstInFirstOut : Prop :=
  (∀ s : State,
    s.kbdQ ++ s.arrivals.flatten = s.kbdPoll.1.toList ++ (s.kbdPoll.2.kbdQ ++ s.kbdPoll.2.arrivals.flatten) ∧
    s.kbdQ ++ s.arrivals.flatten = s.kbdGetc.1.toList ++ (s.kbdGetc.2.kbdQ ++ s.kbdGetc.2.arrivals.flatten)) ∧
  ∀ s t : State, step s = .next t →
    ∃ taken, s.kbdQ ++ s.arrivals.flatten = taken ++ (t.kbdQ ++ t.arrivals.flatten) ∧ (¬ TakesInput s → taken = [])

/-! ### Reset, the loader and the invariant -/

/-- R28, R150: the machine right after reset. (Every value is the spec's own default: D16, assumption 2; KBSR_ADDR, KBDR_ADDR: D5,
assumption 6.) -/
def Obligations.ResetLeavesDefaults : Prop :=
  (∀ r, State.reset.reg r = 0) ∧ State.reset.pc = 0x3000 ∧ State.reset.cond = 0b010 ∧ State.reset.run = .running ∧
  State.reset.fault = .none ∧ (∀ a, State.reset.cell a = 0) ∧ State.reset.kbdQ = [] ∧ State.reset.out = [] ∧
  State.reset.params.kbsrAddr = 0xFE00 ∧ State.reset.params.kbdrAddr = 0xFE02

/-- R156: loading words from an origin leaves each in its cell, up to the end of the address space, and every other cell untouched. (No
wrap at the end: D20, assumption 22.) -/
def Obligations.LoadPlacesWords : Prop :=
  ∀ (origin b : Word) (ws : List Word) (m : Memory), Memory.wf m = true →
    Memory.read (loadWords origin.toNat ws m) b =
      if h : origin.toNat ≤ b.toNat ∧ b.toNat - origin.toNat < ws.length then ws[b.toNat - origin.toNat]'h.2 else Memory.read m b

/-- R155, R158: an image's bytes are a big-endian origin, then big-endian words; a trailing single byte is ignored. (The trailing byte:
D20, assumption 22.) -/
def Obligations.ImageBytesAreBigEndian : Prop :=
  ∀ (origin : Word) (ws : List Word) (odd : Byte),
    parseImage (highByte origin :: lowByte origin :: ws.flatMap (fun w => [highByte w, lowByte w])) = some (origin, ws) ∧
    parseImage (highByte origin :: lowByte origin :: (ws.flatMap (fun w => [highByte w, lowByte w]) ++ [odd])) = some (origin, ws)

/-- R157: of two images loaded in sequence the second one's words stand where it has any, and the first one's elsewhere; no register
changes (R156). -/
def Obligations.LastImageWins : Prop :=
  ∀ (s : State) (first second : List Byte) (origin : Word) (ws : List Word), Memory.wf s.mem = true →
    parseImage second = some (origin, ws) →
    ∃ t, s.loadImages [some first, some second] = some t ∧ t = { s with mem := t.mem } ∧
      ∀ b : Word, t.cell b =
        if h : origin.toNat ≤ b.toNat ∧ b.toNat - origin.toNat < ws.length then ws[b.toNat - origin.toNat]'h.2
        else (s.loadImage first).cell b

/-- The invariant holds after reset, with any parameters that meet spec/00_scope.md R6. -/
def Obligations.ResetMeetsInvariant : Prop :=
  Inv State.reset ∧ ∀ p : Params, paramsWf p = true → Inv (State.resetWith p)

/-- Every step keeps the invariant: memory in canonical form, exactly one flag set (R16), a fault cause only in a halted machine (R19), a
routine in progress only in a running one (R119), every ended emission batch flushed (R23), the parameters as R6 asks. -/
def Obligations.StepKeepsInvariant : Prop :=
  ∀ s t : State, Inv s → step s = .next t → Inv t

/-- The invariant holds of every state a run reaches from boot, by steps and by what the host may do (R24, R152); so `cond` is one of
100, 010, 001 at all times (R16) and the pair (`run`, `fault`) is one of four (R19). -/
def Obligations.ReachableStatesMeetInvariant : Prop :=
  ∀ s : State, Reachable s → Inv s
end

