-- ==== Sys2Proof/Laws/State.lean ====
section
/-! SUPPORT. The small lemmas of the state updates: one per field per update, so that no later proof unfolds a record update. -/

namespace Sys2Proof.Machine

/-! ### setReg -/

@[simp] theorem State.setReg_regs (s : State) (r : Reg) (v : Word) : (s.setReg r v).regs = Regs.set s.regs r v := rfl
@[simp] theorem State.setReg_pc (s : State) (r : Reg) (v : Word) : (s.setReg r v).pc = s.pc := rfl
@[simp] theorem State.setReg_cond (s : State) (r : Reg) (v : Word) : (s.setReg r v).cond = s.cond := rfl
@[simp] theorem State.setReg_run (s : State) (r : Reg) (v : Word) : (s.setReg r v).run = s.run := rfl
@[simp] theorem State.setReg_fault (s : State) (r : Reg) (v : Word) : (s.setReg r v).fault = s.fault := rfl
@[simp] theorem State.setReg_mem (s : State) (r : Reg) (v : Word) : (s.setReg r v).mem = s.mem := rfl
@[simp] theorem State.setReg_kbdQ (s : State) (r : Reg) (v : Word) : (s.setReg r v).kbdQ = s.kbdQ := rfl
@[simp] theorem State.setReg_arrivals (s : State) (r : Reg) (v : Word) : (s.setReg r v).arrivals = s.arrivals := rfl
@[simp] theorem State.setReg_out (s : State) (r : Reg) (v : Word) : (s.setReg r v).out = s.out := rfl
@[simp] theorem State.setReg_unflushed (s : State) (r : Reg) (v : Word) : (s.setReg r v).unflushed = s.unflushed := rfl
@[simp] theorem State.setReg_pending (s : State) (r : Reg) (v : Word) : (s.setReg r v).pending = s.pending := rfl
@[simp] theorem State.setReg_params (s : State) (r : Reg) (v : Word) : (s.setReg r v).params = s.params := rfl

/-! ### setPc -/

@[simp] theorem State.setPc_regs (s : State) (t : Word) : (s.setPc t).regs = s.regs := rfl
@[simp] theorem State.setPc_pc (s : State) (t : Word) : (s.setPc t).pc = t := rfl
@[simp] theorem State.setPc_cond (s : State) (t : Word) : (s.setPc t).cond = s.cond := rfl
@[simp] theorem State.setPc_run (s : State) (t : Word) : (s.setPc t).run = s.run := rfl
@[simp] theorem State.setPc_fault (s : State) (t : Word) : (s.setPc t).fault = s.fault := rfl
@[simp] theorem State.setPc_mem (s : State) (t : Word) : (s.setPc t).mem = s.mem := rfl
@[simp] theorem State.setPc_kbdQ (s : State) (t : Word) : (s.setPc t).kbdQ = s.kbdQ := rfl
@[simp] theorem State.setPc_arrivals (s : State) (t : Word) : (s.setPc t).arrivals = s.arrivals := rfl
@[simp] theorem State.setPc_out (s : State) (t : Word) : (s.setPc t).out = s.out := rfl
@[simp] theorem State.setPc_unflushed (s : State) (t : Word) : (s.setPc t).unflushed = s.unflushed := rfl
@[simp] theorem State.setPc_pending (s : State) (t : Word) : (s.setPc t).pending = s.pending := rfl
@[simp] theorem State.setPc_params (s : State) (t : Word) : (s.setPc t).params = s.params := rfl

/-! ### hostAppend -/

@[simp] theorem State.hostAppend_regs (s : State) (cs : List Byte) : (s.hostAppend cs).regs = s.regs := rfl
@[simp] theorem State.hostAppend_pc (s : State) (cs : List Byte) : (s.hostAppend cs).pc = s.pc := rfl
@[simp] theorem State.hostAppend_cond (s : State) (cs : List Byte) : (s.hostAppend cs).cond = s.cond := rfl
@[simp] theorem State.hostAppend_run (s : State) (cs : List Byte) : (s.hostAppend cs).run = s.run := rfl
@[simp] theorem State.hostAppend_fault (s : State) (cs : List Byte) : (s.hostAppend cs).fault = s.fault := rfl
@[simp] theorem State.hostAppend_mem (s : State) (cs : List Byte) : (s.hostAppend cs).mem = s.mem := rfl
@[simp] theorem State.hostAppend_kbdQ (s : State) (cs : List Byte) : (s.hostAppend cs).kbdQ = s.kbdQ ++ cs := rfl
@[simp] theorem State.hostAppend_arrivals (s : State) (cs : List Byte) : (s.hostAppend cs).arrivals = s.arrivals := rfl
@[simp] theorem State.hostAppend_out (s : State) (cs : List Byte) : (s.hostAppend cs).out = s.out := rfl
@[simp] theorem State.hostAppend_unflushed (s : State) (cs : List Byte) : (s.hostAppend cs).unflushed = s.unflushed := rfl
@[simp] theorem State.hostAppend_pending (s : State) (cs : List Byte) : (s.hostAppend cs).pending = s.pending := rfl
@[simp] theorem State.hostAppend_params (s : State) (cs : List Byte) : (s.hostAppend cs).params = s.params := rfl

/-! ### outEmit -/

@[simp] theorem State.outEmit_regs (s : State) (b : Byte) : (s.outEmit b).regs = s.regs := rfl
@[simp] theorem State.outEmit_pc (s : State) (b : Byte) : (s.outEmit b).pc = s.pc := rfl
@[simp] theorem State.outEmit_cond (s : State) (b : Byte) : (s.outEmit b).cond = s.cond := rfl
@[simp] theorem State.outEmit_run (s : State) (b : Byte) : (s.outEmit b).run = s.run := rfl
@[simp] theorem State.outEmit_fault (s : State) (b : Byte) : (s.outEmit b).fault = s.fault := rfl
@[simp] theorem State.outEmit_mem (s : State) (b : Byte) : (s.outEmit b).mem = s.mem := rfl
@[simp] theorem State.outEmit_kbdQ (s : State) (b : Byte) : (s.outEmit b).kbdQ = s.kbdQ := rfl
@[simp] theorem State.outEmit_arrivals (s : State) (b : Byte) : (s.outEmit b).arrivals = s.arrivals := rfl
@[simp] theorem State.outEmit_out (s : State) (b : Byte) : (s.outEmit b).out = s.out ++ [b] := rfl
@[simp] theorem State.outEmit_unflushed (s : State) (b : Byte) : (s.outEmit b).unflushed = s.unflushed + 1 := rfl
@[simp] theorem State.outEmit_pending (s : State) (b : Byte) : (s.outEmit b).pending = s.pending := rfl
@[simp] theorem State.outEmit_params (s : State) (b : Byte) : (s.outEmit b).params = s.params := rfl

/-! ### outFlush -/

@[simp] theorem State.outFlush_regs (s : State) : (s.outFlush).regs = s.regs := rfl
@[simp] theorem State.outFlush_pc (s : State) : (s.outFlush).pc = s.pc := rfl
@[simp] theorem State.outFlush_cond (s : State) : (s.outFlush).cond = s.cond := rfl
@[simp] theorem State.outFlush_run (s : State) : (s.outFlush).run = s.run := rfl
@[simp] theorem State.outFlush_fault (s : State) : (s.outFlush).fault = s.fault := rfl
@[simp] theorem State.outFlush_mem (s : State) : (s.outFlush).mem = s.mem := rfl
@[simp] theorem State.outFlush_kbdQ (s : State) : (s.outFlush).kbdQ = s.kbdQ := rfl
@[simp] theorem State.outFlush_arrivals (s : State) : (s.outFlush).arrivals = s.arrivals := rfl
@[simp] theorem State.outFlush_out (s : State) : (s.outFlush).out = s.out := rfl
@[simp] theorem State.outFlush_unflushed (s : State) : (s.outFlush).unflushed = 0 := rfl
@[simp] theorem State.outFlush_pending (s : State) : (s.outFlush).pending = s.pending := rfl
@[simp] theorem State.outFlush_params (s : State) : (s.outFlush).params = s.params := rfl

/-! ### setCell -/

@[simp] theorem State.setCell_regs (s : State) (a v : Word) : (s.setCell a v).regs = s.regs := rfl
@[simp] theorem State.setCell_pc (s : State) (a v : Word) : (s.setCell a v).pc = s.pc := rfl
@[simp] theorem State.setCell_cond (s : State) (a v : Word) : (s.setCell a v).cond = s.cond := rfl
@[simp] theorem State.setCell_run (s : State) (a v : Word) : (s.setCell a v).run = s.run := rfl
@[simp] theorem State.setCell_fault (s : State) (a v : Word) : (s.setCell a v).fault = s.fault := rfl
@[simp] theorem State.setCell_mem (s : State) (a v : Word) : (s.setCell a v).mem = Memory.write s.mem a v := rfl
@[simp] theorem State.setCell_kbdQ (s : State) (a v : Word) : (s.setCell a v).kbdQ = s.kbdQ := rfl
@[simp] theorem State.setCell_arrivals (s : State) (a v : Word) : (s.setCell a v).arrivals = s.arrivals := rfl
@[simp] theorem State.setCell_out (s : State) (a v : Word) : (s.setCell a v).out = s.out := rfl
@[simp] theorem State.setCell_unflushed (s : State) (a v : Word) : (s.setCell a v).unflushed = s.unflushed := rfl
@[simp] theorem State.setCell_pending (s : State) (a v : Word) : (s.setCell a v).pending = s.pending := rfl
@[simp] theorem State.setCell_params (s : State) (a v : Word) : (s.setCell a v).params = s.params := rfl

/-! ### memWrite -/

@[simp] theorem State.memWrite_regs (s : State) (a v : Word) : (s.memWrite a v).regs = s.regs := rfl
@[simp] theorem State.memWrite_pc (s : State) (a v : Word) : (s.memWrite a v).pc = s.pc := rfl
@[simp] theorem State.memWrite_cond (s : State) (a v : Word) : (s.memWrite a v).cond = s.cond := rfl
@[simp] theorem State.memWrite_run (s : State) (a v : Word) : (s.memWrite a v).run = s.run := rfl
@[simp] theorem State.memWrite_fault (s : State) (a v : Word) : (s.memWrite a v).fault = s.fault := rfl
@[simp] theorem State.memWrite_mem (s : State) (a v : Word) : (s.memWrite a v).mem = Memory.write s.mem a v := rfl
@[simp] theorem State.memWrite_kbdQ (s : State) (a v : Word) : (s.memWrite a v).kbdQ = s.kbdQ := rfl
@[simp] theorem State.memWrite_arrivals (s : State) (a v : Word) : (s.memWrite a v).arrivals = s.arrivals := rfl
@[simp] theorem State.memWrite_out (s : State) (a v : Word) : (s.memWrite a v).out = s.out := rfl
@[simp] theorem State.memWrite_unflushed (s : State) (a v : Word) : (s.memWrite a v).unflushed = s.unflushed := rfl
@[simp] theorem State.memWrite_pending (s : State) (a v : Word) : (s.memWrite a v).pending = s.pending := rfl
@[simp] theorem State.memWrite_params (s : State) (a v : Word) : (s.memWrite a v).params = s.params := rfl

/-! ### raise -/

@[simp] theorem State.raise_regs (s : State) (c : FaultCause) : (s.raise c).regs = s.regs := rfl
@[simp] theorem State.raise_pc (s : State) (c : FaultCause) : (s.raise c).pc = s.pc := rfl
@[simp] theorem State.raise_cond (s : State) (c : FaultCause) : (s.raise c).cond = s.cond := rfl
@[simp] theorem State.raise_run (s : State) (c : FaultCause) : (s.raise c).run = .halted := rfl
@[simp] theorem State.raise_fault (s : State) (c : FaultCause) : (s.raise c).fault = c := rfl
@[simp] theorem State.raise_mem (s : State) (c : FaultCause) : (s.raise c).mem = s.mem := rfl
@[simp] theorem State.raise_kbdQ (s : State) (c : FaultCause) : (s.raise c).kbdQ = s.kbdQ := rfl
@[simp] theorem State.raise_arrivals (s : State) (c : FaultCause) : (s.raise c).arrivals = s.arrivals := rfl
@[simp] theorem State.raise_out (s : State) (c : FaultCause) : (s.raise c).out = s.out := rfl
@[simp] theorem State.raise_unflushed (s : State) (c : FaultCause) : (s.raise c).unflushed = s.unflushed := rfl
@[simp] theorem State.raise_pending (s : State) (c : FaultCause) : (s.raise c).pending = s.pending := rfl
@[simp] theorem State.raise_params (s : State) (c : FaultCause) : (s.raise c).params = s.params := rfl

/-! ### link -/

@[simp] theorem State.link_regs (s : State) : (s.link).regs = Regs.set s.regs .r7 s.pc := rfl
@[simp] theorem State.link_pc (s : State) : (s.link).pc = s.pc := rfl
@[simp] theorem State.link_cond (s : State) : (s.link).cond = s.cond := rfl
@[simp] theorem State.link_run (s : State) : (s.link).run = s.run := rfl
@[simp] theorem State.link_fault (s : State) : (s.link).fault = s.fault := rfl
@[simp] theorem State.link_mem (s : State) : (s.link).mem = s.mem := rfl
@[simp] theorem State.link_kbdQ (s : State) : (s.link).kbdQ = s.kbdQ := rfl
@[simp] theorem State.link_arrivals (s : State) : (s.link).arrivals = s.arrivals := rfl
@[simp] theorem State.link_out (s : State) : (s.link).out = s.out := rfl
@[simp] theorem State.link_unflushed (s : State) : (s.link).unflushed = s.unflushed := rfl
@[simp] theorem State.link_pending (s : State) : (s.link).pending = s.pending := rfl
@[simp] theorem State.link_params (s : State) : (s.link).params = s.params := rfl

/-! ### writeRegCC -/

@[simp] theorem State.writeRegCC_regs (s : State) (r : Reg) (v : Word) : (s.writeRegCC r v).regs = Regs.set s.regs r v := rfl
@[simp] theorem State.writeRegCC_pc (s : State) (r : Reg) (v : Word) : (s.writeRegCC r v).pc = s.pc := rfl
@[simp] theorem State.writeRegCC_cond (s : State) (r : Reg) (v : Word) : (s.writeRegCC r v).cond = setcc v := rfl
@[simp] theorem State.writeRegCC_run (s : State) (r : Reg) (v : Word) : (s.writeRegCC r v).run = s.run := rfl
@[simp] theorem State.writeRegCC_fault (s : State) (r : Reg) (v : Word) : (s.writeRegCC r v).fault = s.fault := rfl
@[simp] theorem State.writeRegCC_mem (s : State) (r : Reg) (v : Word) : (s.writeRegCC r v).mem = s.mem := rfl
@[simp] theorem State.writeRegCC_kbdQ (s : State) (r : Reg) (v : Word) : (s.writeRegCC r v).kbdQ = s.kbdQ := rfl
@[simp] theorem State.writeRegCC_arrivals (s : State) (r : Reg) (v : Word) : (s.writeRegCC r v).arrivals = s.arrivals := rfl
@[simp] theorem State.writeRegCC_out (s : State) (r : Reg) (v : Word) : (s.writeRegCC r v).out = s.out := rfl
@[simp] theorem State.writeRegCC_unflushed (s : State) (r : Reg) (v : Word) : (s.writeRegCC r v).unflushed = s.unflushed := rfl
@[simp] theorem State.writeRegCC_pending (s : State) (r : Reg) (v : Word) : (s.writeRegCC r v).pending = s.pending := rfl
@[simp] theorem State.writeRegCC_params (s : State) (r : Reg) (v : Word) : (s.writeRegCC r v).params = s.params := rfl

/-! ### suspend -/

@[simp] theorem State.suspend_regs (s : State) (p : Routine) : (s.suspend p).regs = s.regs := rfl
@[simp] theorem State.suspend_pc (s : State) (p : Routine) : (s.suspend p).pc = s.pc := rfl
@[simp] theorem State.suspend_cond (s : State) (p : Routine) : (s.suspend p).cond = s.cond := rfl
@[simp] theorem State.suspend_run (s : State) (p : Routine) : (s.suspend p).run = s.run := rfl
@[simp] theorem State.suspend_fault (s : State) (p : Routine) : (s.suspend p).fault = s.fault := rfl
@[simp] theorem State.suspend_mem (s : State) (p : Routine) : (s.suspend p).mem = s.mem := rfl
@[simp] theorem State.suspend_kbdQ (s : State) (p : Routine) : (s.suspend p).kbdQ = s.kbdQ := rfl
@[simp] theorem State.suspend_arrivals (s : State) (p : Routine) : (s.suspend p).arrivals = s.arrivals := rfl
@[simp] theorem State.suspend_out (s : State) (p : Routine) : (s.suspend p).out = s.out := rfl
@[simp] theorem State.suspend_unflushed (s : State) (p : Routine) : (s.suspend p).unflushed = s.unflushed := rfl
@[simp] theorem State.suspend_pending (s : State) (p : Routine) : (s.suspend p).pending = some p := rfl
@[simp] theorem State.suspend_params (s : State) (p : Routine) : (s.suspend p).params = s.params := rfl

/-! ### finish -/

@[simp] theorem State.finish_regs (s : State) : (s.finish).regs = s.regs := rfl
@[simp] theorem State.finish_pc (s : State) : (s.finish).pc = s.pc := rfl
@[simp] theorem State.finish_cond (s : State) : (s.finish).cond = s.cond := rfl
@[simp] theorem State.finish_run (s : State) : (s.finish).run = s.run := rfl
@[simp] theorem State.finish_fault (s : State) : (s.finish).fault = s.fault := rfl
@[simp] theorem State.finish_mem (s : State) : (s.finish).mem = s.mem := rfl
@[simp] theorem State.finish_kbdQ (s : State) : (s.finish).kbdQ = s.kbdQ := rfl
@[simp] theorem State.finish_arrivals (s : State) : (s.finish).arrivals = s.arrivals := rfl
@[simp] theorem State.finish_out (s : State) : (s.finish).out = s.out := rfl
@[simp] theorem State.finish_unflushed (s : State) : (s.finish).unflushed = s.unflushed := rfl
@[simp] theorem State.finish_pending (s : State) : (s.finish).pending = none := rfl
@[simp] theorem State.finish_params (s : State) : (s.finish).params = s.params := rfl

/-! ### Reset (R28) -/

@[simp] theorem State.resetWith_regs (p : Params) : (State.resetWith p).regs = p.gprReset := rfl
@[simp] theorem State.resetWith_pc (p : Params) : (State.resetWith p).pc = p.pcReset := rfl
@[simp] theorem State.resetWith_cond (p : Params) : (State.resetWith p).cond = p.condReset := rfl
@[simp] theorem State.resetWith_run (p : Params) : (State.resetWith p).run = .running := rfl
@[simp] theorem State.resetWith_fault (p : Params) : (State.resetWith p).fault = .none := rfl
@[simp] theorem State.resetWith_mem (p : Params) : (State.resetWith p).mem = p.memReset := rfl
@[simp] theorem State.resetWith_kbdQ (p : Params) : (State.resetWith p).kbdQ = [] := rfl
@[simp] theorem State.resetWith_arrivals (p : Params) : (State.resetWith p).arrivals = [] := rfl
@[simp] theorem State.resetWith_out (p : Params) : (State.resetWith p).out = [] := rfl
@[simp] theorem State.resetWith_unflushed (p : Params) : (State.resetWith p).unflushed = 0 := rfl
@[simp] theorem State.resetWith_pending (p : Params) : (State.resetWith p).pending = none := rfl
@[simp] theorem State.resetWith_params (p : Params) : (State.resetWith p).params = p := rfl

/-! ### Registers -/

@[simp] theorem Regs.get_set_self (x : Regs) (r : Reg) (v : Word) : Regs.get (Regs.set x r v) r = v := by
  cases r <;> rfl

theorem Regs.get_set_ne (x : Regs) {r q : Reg} (v : Word) (h : q ≠ r) : Regs.get (Regs.set x r v) q = Regs.get x q := by
  cases r <;> cases q <;> first | rfl | exact absurd rfl h

theorem Regs.get_set (x : Regs) (r q : Reg) (v : Word) :
    Regs.get (Regs.set x r v) q = if q = r then v else Regs.get x q := by
  split
  · next h => rw [h, Regs.get_set_self]
  · next h => rw [Regs.get_set_ne x v h]

@[simp] theorem State.reg_setReg_self (s : State) (r : Reg) (v : Word) : (s.setReg r v).reg r = v :=
  Regs.get_set_self s.regs r v

theorem State.reg_setReg_ne (s : State) {r q : Reg} (v : Word) (h : q ≠ r) : (s.setReg r v).reg q = s.reg q :=
  Regs.get_set_ne s.regs v h

@[simp] theorem State.reg_writeRegCC_self (s : State) (r : Reg) (v : Word) : (s.writeRegCC r v).reg r = v :=
  Regs.get_set_self s.regs r v

theorem State.reg_writeRegCC_ne (s : State) {r q : Reg} (v : Word) (h : q ≠ r) : (s.writeRegCC r v).reg q = s.reg q :=
  Regs.get_set_ne s.regs v h

/-- A register reads as the register file says. -/
theorem State.reg_congr {s t : State} (h : t.regs = s.regs) (r : Reg) : t.reg r = s.reg r := by
  unfold State.reg; rw [h]

/-- A cell reads as the memory says. -/
theorem State.cell_congr {s t : State} (h : t.mem = s.mem) (a : Word) : t.cell a = s.cell a := by
  unfold State.cell; rw [h]

end Sys2Proof.Machine
end

