-- ==== Sys2Proof/Laws/Memory.lean ====
section
/-! SUPPORT. The laws of the memory list: what a read after a write gives, and that a write keeps the canonical form. -/

namespace Sys2Proof.Machine

/-- A write leaves every other address alone (no canonical form needed). -/
theorem Memory.readNat_writeNat_ne (m : Memory) {a b : Nat} (v : Word) (h : b ≠ a) :
    Memory.readNat (Memory.writeNat m a v) b = Memory.readNat m b := by
  induction m with
  | nil =>
    simp only [Memory.writeNat]
    split <;> simp [Memory.readNat, h.symm]
  | cons kv m ih =>
    obtain ⟨k, w⟩ := kv
    simp only [Memory.writeNat]
    split
    · split <;> simp [Memory.readNat, h.symm]
    · split
      · next _ hak =>
        subst hak
        split <;> simp [Memory.readNat, h.symm]
      · simp only [Memory.readNat, ih]

/-- Below its first address a canonical memory lists nothing. -/
theorem Memory.readNat_of_wfFrom {lo a : Nat} (m : Memory) (h : Memory.wfFrom lo m = true) (ha : a < lo) :
    Memory.readNat m a = memFill := by
  induction m generalizing lo with
  | nil => rfl
  | cons kv m ih =>
    obtain ⟨k, w⟩ := kv
    simp only [Memory.wfFrom, Bool.and_eq_true, decide_eq_true_eq] at h
    have hne : k ≠ a := by omega
    simp only [Memory.readNat, hne, if_false]
    exact ih h.2 (by omega)

/-- A read after a write to the same address gives the value written. -/
theorem Memory.readNat_writeNat_self {lo : Nat} (m : Memory) (a : Nat) (v : Word) (h : Memory.wfFrom lo m = true) :
    Memory.readNat (Memory.writeNat m a v) a = v := by
  induction m generalizing lo with
  | nil =>
    simp only [Memory.writeNat]
    split
    · next hv => rw [hv]; rfl
    · simp [Memory.readNat]
  | cons kv m ih =>
    obtain ⟨k, w⟩ := kv
    simp only [Memory.wfFrom, Bool.and_eq_true, decide_eq_true_eq] at h
    simp only [Memory.writeNat]
    split
    · next hlt =>
      split
      · next hv =>
        have hne : k ≠ a := by omega
        simp only [Memory.readNat, hne, if_false, hv]
        exact Memory.readNat_of_wfFrom m h.2 (by omega)
      · simp [Memory.readNat]
    · split
      · next _ hak =>
        split
        · next hv => rw [hv]; exact Memory.readNat_of_wfFrom m h.2 (by omega)
        · simp [Memory.readNat]
      · next hlt hne =>
        have hka : k ≠ a := fun e => hne e.symm
        simp only [Memory.readNat, hka, if_false]
        exact ih h.2

/-- A canonical form from a later address on is one from an earlier address on. -/
theorem Memory.wfFrom_mono {lo hi : Nat} (m : Memory) (h : Memory.wfFrom hi m = true) (hl : lo ≤ hi) :
    Memory.wfFrom lo m = true := by
  cases m with
  | nil => rfl
  | cons kv m =>
    obtain ⟨k, w⟩ := kv
    simp only [Memory.wfFrom, Bool.and_eq_true, decide_eq_true_eq] at h ⊢
    exact ⟨⟨⟨by omega, h.1.1.2⟩, h.1.2⟩, h.2⟩

/-- A write at `a ≥ lo` keeps the canonical form from `lo` on. -/
theorem Memory.wfFrom_writeNat {lo : Nat} (m : Memory) (a : Nat) (v : Word) (h : Memory.wfFrom lo m = true)
    (hlo : lo ≤ a) (ha : a < 65536) : Memory.wfFrom lo (Memory.writeNat m a v) = true := by
  induction m generalizing lo with
  | nil =>
    simp only [Memory.writeNat]
    split
    · rfl
    · next hv => simp [Memory.wfFrom, hlo, ha, hv]
  | cons kv m ih =>
    obtain ⟨k, w⟩ := kv
    have hm := h
    simp only [Memory.wfFrom, Bool.and_eq_true, decide_eq_true_eq] at h
    simp only [Memory.writeNat]
    split
    · next hlt =>
      split
      · exact hm
      · next hv =>
        have : a + 1 ≤ k := by omega
        simp [Memory.wfFrom, hlo, ha, hv, this, h.1.1.2, h.1.2, h.2]
    · split
      · next _ hak =>
        subst hak
        split
        · exact Memory.wfFrom_mono m h.2 (by omega)
        · next hv => simp [Memory.wfFrom, hlo, ha, hv, h.2]
      · next hlt hne =>
        have := ih h.2 (by omega)
        simp [Memory.wfFrom, h.1.1.1, h.1.1.2, h.1.2, this]

/-! ### The same over 16-bit addresses -/

theorem Memory.read_write_ne (m : Memory) {a b : Word} (v : Word) (h : b ≠ a) :
    Memory.read (Memory.write m a v) b = Memory.read m b :=
  Memory.readNat_writeNat_ne m v (fun e => h (BitVec.eq_of_toNat_eq e))

theorem Memory.read_write_self {m : Memory} (a v : Word) (h : Memory.wf m = true) :
    Memory.read (Memory.write m a v) a = v :=
  Memory.readNat_writeNat_self m a.toNat v h

theorem Memory.wf_write {m : Memory} (a v : Word) (h : Memory.wf m = true) : Memory.wf (Memory.write m a v) = true :=
  Memory.wfFrom_writeNat m a.toNat v h (Nat.zero_le _) a.isLt

theorem State.cell_setCell_ne (s : State) {a b : Word} (v : Word) (h : b ≠ a) : (s.setCell a v).cell b = s.cell b :=
  Memory.read_write_ne s.mem v h

theorem State.cell_setCell_self {s : State} (a v : Word) (h : Memory.wf s.mem = true) : (s.setCell a v).cell a = v :=
  Memory.read_write_self a v h

theorem State.cell_memWrite_ne (s : State) {a b : Word} (v : Word) (h : b ≠ a) : (s.memWrite a v).cell b = s.cell b :=
  Memory.read_write_ne s.mem v h

theorem State.cell_memWrite_self {s : State} (a v : Word) (h : Memory.wf s.mem = true) : (s.memWrite a v).cell a = v :=
  Memory.read_write_self a v h

end Sys2Proof.Machine
end

