-- ==== Sys2Proof/Laws/Device.lean ====
section
/-! SUPPORT. What the shared operations over the keyboard, the output stream and memory reads can do, said once. -/

namespace Sys2Proof.Machine

/-! ### The input device (R22) -/

/-- The characters the machine has not taken yet, in the order it will take them. -/
def State.input (s : State) : List Byte := s.kbdQ ++ s.arrivals.flatten

/-- All that `deliver` can do: nothing, or move one batch. -/
theorem State.deliver_cases (s : State) :
    (s.arrivals = [] ∧ s.deliver = s) ∨
    (∃ b bs, s.arrivals = b :: bs ∧ s.deliver = { s with kbdQ := s.kbdQ ++ b, arrivals := bs }) := by
  unfold State.deliver
  cases h : s.arrivals with
  | nil => exact .inl ⟨rfl, rfl⟩
  | cons b bs => exact .inr ⟨b, bs, rfl, rfl⟩

/-- `deliver` changes the queue and the arrivals, and nothing else. -/
theorem State.deliver_eq (s : State) : s.deliver = { s with kbdQ := s.deliver.kbdQ, arrivals := s.deliver.arrivals } := by
  obtain ⟨-, h⟩ | ⟨b, bs, -, h⟩ := s.deliver_cases <;> rw [h]

theorem State.deliver_input (s : State) : s.deliver.input = s.input := by
  obtain ⟨-, h⟩ | ⟨b, bs, ha, h⟩ := s.deliver_cases
  · rw [h]
  · rw [h]; simp [State.input, ha]

/-- All that taking a character can do: none is there, or the head of the queue is taken; nothing else changes. -/
theorem State.kbdTake_cases (s : State) :
    (s.deliver.kbdQ = [] ∧ s.kbdTake = (none, s.deliver)) ∨
    (∃ c q, s.deliver.kbdQ = c :: q ∧ s.kbdTake = (some c, { s.deliver with kbdQ := q })) := by
  unfold State.kbdTake
  cases h : s.deliver.kbdQ with
  | nil => exact .inl ⟨rfl, rfl⟩
  | cons c q => exact .inr ⟨c, q, rfl, rfl⟩

/-- Taking a character changes the queue and the arrivals, and nothing else. -/
theorem State.kbdTake_eq (s : State) :
    s.kbdTake.2 = { s with kbdQ := s.kbdTake.2.kbdQ, arrivals := s.kbdTake.2.arrivals } := by
  obtain ⟨-, h⟩ | ⟨c, q, -, h⟩ := s.kbdTake_cases <;> rw [h, s.deliver_eq]

/-! ### The probe and `MemRead` (R32, R33) -/

/-- All that the probe can do: no character and bit 15 cleared, or one character taken and staged. -/
theorem State.kbsrProbe_cases (s : State) :
    (s.deliver.kbdQ = [] ∧ s.kbsrProbe = s.deliver.setCell s.params.kbsrAddr (s.cell s.params.kbsrAddr &&& 0x7FFF)) ∨
    (∃ c q, s.deliver.kbdQ = c :: q ∧
      s.kbsrProbe = (({ s.deliver with kbdQ := q } : State).setCell s.params.kbsrAddr
        (s.cell s.params.kbsrAddr ||| 0x8000)).setCell s.params.kbdrAddr (zext8 c)) := by
  have hd := s.deliver_eq
  unfold State.kbsrProbe State.kbdPoll
  obtain ⟨hq, h⟩ | ⟨c, q, hq, h⟩ := s.kbdTake_cases
  · refine .inl ⟨hq, ?_⟩
    rw [h]; simp only; rw [hd]; rfl
  · refine .inr ⟨c, q, hq, ?_⟩
    rw [h]; simp only; rw [hd]; rfl

/-- The probe changes memory, the queue and the arrivals, and nothing else. -/
theorem State.kbsrProbe_eq (s : State) :
    s.kbsrProbe = { s with mem := s.kbsrProbe.mem, kbdQ := s.kbsrProbe.kbdQ, arrivals := s.kbsrProbe.arrivals } := by
  obtain ⟨-, h⟩ | ⟨c, q, -, h⟩ := s.kbsrProbe_cases <;> rw [h, s.deliver_eq] <;> rfl

/-- The probe touches the two device cells only. -/
theorem State.kbsrProbe_cell_ne (s : State) {a : Word} (h1 : a ≠ s.params.kbsrAddr) (h2 : a ≠ s.params.kbdrAddr) :
    s.kbsrProbe.cell a = s.cell a := by
  have hm : s.deliver.mem = s.mem := by rw [s.deliver_eq]
  obtain ⟨-, h⟩ | ⟨c, q, -, h⟩ := s.kbsrProbe_cases
  · rw [h, State.cell_setCell_ne _ _ h1]; exact State.cell_congr hm a
  · rw [h, State.cell_setCell_ne _ _ h2, State.cell_setCell_ne _ _ h1]; exact State.cell_congr hm a

theorem State.kbsrProbe_wf {s : State} (h : Memory.wf s.mem = true) : Memory.wf s.kbsrProbe.mem = true := by
  have hm : s.deliver.mem = s.mem := by rw [s.deliver_eq]
  obtain ⟨-, e⟩ | ⟨c, q, -, e⟩ := s.kbsrProbe_cases <;> rw [e] <;> simp only [State.setCell_mem, hm]
  · exact Memory.wf_write _ _ h
  · exact Memory.wf_write _ _ (Memory.wf_write _ _ h)

theorem State.memRead_of_ne {s : State} {a : Word} (h : a ≠ s.params.kbsrAddr) : s.memRead a = (s.cell a, s) := by
  simp [State.memRead, State.probeFor, h]

theorem State.memRead_kbsr (s : State) :
    s.memRead s.params.kbsrAddr = (s.kbsrProbe.cell s.params.kbsrAddr, s.kbsrProbe) := by
  simp [State.memRead, State.probeFor]

/-- All that a read can do to the state: nothing, or the probe. -/
theorem State.memRead_cases (s : State) (a : Word) :
    (a ≠ s.params.kbsrAddr ∧ s.memRead a = (s.cell a, s)) ∨
    (a = s.params.kbsrAddr ∧ s.memRead a = (s.kbsrProbe.cell a, s.kbsrProbe)) := by
  by_cases h : a = s.params.kbsrAddr
  · exact .inr ⟨h, by simp [State.memRead, State.probeFor, h]⟩
  · exact .inl ⟨h, State.memRead_of_ne h⟩

/-- A read changes memory, the queue and the arrivals at most. -/
theorem State.memRead_eq (s : State) (a : Word) :
    (s.memRead a).2 =
      { s with mem := (s.memRead a).2.mem, kbdQ := (s.memRead a).2.kbdQ, arrivals := (s.memRead a).2.arrivals } := by
  obtain ⟨-, h⟩ | ⟨-, h⟩ := s.memRead_cases a
  · rw [h]
  · rw [h]; exact s.kbsrProbe_eq

@[simp] theorem State.memRead_regs (s : State) (a : Word) : (s.memRead a).2.regs = s.regs := by rw [s.memRead_eq a]
@[simp] theorem State.memRead_pc (s : State) (a : Word) : (s.memRead a).2.pc = s.pc := by rw [s.memRead_eq a]
@[simp] theorem State.memRead_cond (s : State) (a : Word) : (s.memRead a).2.cond = s.cond := by rw [s.memRead_eq a]
@[simp] theorem State.memRead_run (s : State) (a : Word) : (s.memRead a).2.run = s.run := by rw [s.memRead_eq a]
@[simp] theorem State.memRead_fault (s : State) (a : Word) : (s.memRead a).2.fault = s.fault := by rw [s.memRead_eq a]
@[simp] theorem State.memRead_out (s : State) (a : Word) : (s.memRead a).2.out = s.out := by rw [s.memRead_eq a]
@[simp] theorem State.memRead_unflushed (s : State) (a : Word) : (s.memRead a).2.unflushed = s.unflushed := by
  rw [s.memRead_eq a]
@[simp] theorem State.memRead_pending (s : State) (a : Word) : (s.memRead a).2.pending = s.pending := by rw [s.memRead_eq a]
@[simp] theorem State.memRead_params (s : State) (a : Word) : (s.memRead a).2.params = s.params := by rw [s.memRead_eq a]
@[simp] theorem State.memRead_reg (s : State) (a : Word) (r : Reg) : (s.memRead a).2.reg r = s.reg r :=
  State.reg_congr (s.memRead_regs a) r

theorem State.memRead_wf {s : State} (a : Word) (h : Memory.wf s.mem = true) : Memory.wf (s.memRead a).2.mem = true := by
  obtain ⟨-, e⟩ | ⟨-, e⟩ := s.memRead_cases a
  · rw [e]; exact h
  · rw [e]; exact State.kbsrProbe_wf h

/-- A read changes no cell but the two device cells. -/
theorem State.memRead_cell_ne (s : State) (a : Word) {b : Word} (h1 : b ≠ s.params.kbsrAddr) (h2 : b ≠ s.params.kbdrAddr) :
    (s.memRead a).2.cell b = s.cell b := by
  obtain ⟨-, e⟩ | ⟨-, e⟩ := s.memRead_cases a
  · rw [e]
  · rw [e]; exact s.kbsrProbe_cell_ne h1 h2

/-! ### The output stream (R23) -/

/-- Emitting bytes appends them to `out`, in order, and counts them. -/
theorem State.outEmitAll_eq (s : State) (bs : List Byte) :
    s.outEmitAll bs = { s with out := s.out ++ bs, unflushed := s.unflushed + bs.length } := by
  induction bs generalizing s with
  | nil => simp [State.outEmitAll]
  | cons b bs ih =>
    simp only [State.outEmitAll, ih]
    simp [State.outEmit, Nat.add_assoc, Nat.add_comm 1]

/-! ### The fetch (R72, R73) -/

theorem State.fetch_eq (s : State) : s.fetch = ((s.memRead s.pc).1, { (s.memRead s.pc).2 with pc := s.pc + 1 }) := rfl

theorem State.fetch_of_ne {s : State} (h : s.pc ≠ s.params.kbsrAddr) : s.fetch = (s.cell s.pc, { s with pc := s.pc + 1 }) := by
  rw [s.fetch_eq, State.memRead_of_ne h]

end Sys2Proof.Machine
end

