-- ==== Sys2Proof/Laws/Loader.lean ====
section
/-! SUPPORT. The loader keeps the canonical form of memory and writes nothing else (R156). -/

namespace Sys2Proof.Machine

theorem loadWords_wf (ws : List Word) : ∀ (a : Nat) (m : Memory), Memory.wf m = true → Memory.wf (loadWords a ws m) = true := by
  induction ws with
  | nil => intro a m h; exact h
  | cons w ws ih =>
    intro a m h
    simp only [loadWords]
    split
    · exact h
    · next hle => exact ih _ _ (Memory.wfFrom_writeNat m a w h (Nat.zero_le _) (by omega))

/-- A load changes memory only. -/
theorem State.loadImage_eq (s : State) (bytes : List Byte) : s.loadImage bytes = { s with mem := (s.loadImage bytes).mem } := by
  unfold State.loadImage
  cases parseImage bytes <;> rfl

theorem State.loadImage_wf {s : State} (bytes : List Byte) (h : Memory.wf s.mem = true) :
    Memory.wf (s.loadImage bytes).mem = true := by
  unfold State.loadImage
  cases parseImage bytes with
  | none => exact h
  | some ow => exact loadWords_wf ow.2 _ _ h

/-- Loading images changes memory only, and keeps its canonical form. -/
theorem State.loadImages_some {images : List (Option (List Byte))} :
    ∀ {s t : State}, s.loadImages images = some t →
      t = { s with mem := t.mem } ∧ (Memory.wf s.mem = true → Memory.wf t.mem = true) := by
  induction images with
  | nil =>
    intro s t h
    simp only [State.loadImages, Option.some.injEq] at h
    subst h; exact ⟨rfl, id⟩
  | cons image images ih =>
    intro s t h
    cases image with
    | none => simp [State.loadImages] at h
    | some bytes =>
      simp only [State.loadImages] at h
      obtain ⟨h1, h2⟩ := ih h
      refine ⟨?_, fun hs => h2 (State.loadImage_wf bytes hs)⟩
      rw [h1, s.loadImage_eq bytes]

end Sys2Proof.Machine
end

