-- ==== Sys2Proof/Laws/PerInstr.lean ====
section
/-! SUPPORT. Statements made per instruction: the word an instruction encodes to has the selecting bits of its own row of
spec/opcode_table.json. -/

namespace Sys2Proof.Laws.RowWord

/-- The instruction's word has its row's selecting bits (spec/30_encoding.md R62 against the table's `mask` and `match`). -/
def Statement (i : Instr) : Prop := encode i &&& rowMask i = rowMatch i

theorem br (mask : BitVec 3) (off : BitVec 9) : Statement (.br mask off) :=
  BitVec.eq_of_getLsbD_eq fun i hi => by
    interval_cases i <;> simp [encode, place, rowMask, rowMatch]

theorem addReg (dr sr1 sr2 : Reg) : Statement (.addReg dr sr1 sr2) :=
  BitVec.eq_of_getLsbD_eq fun i hi => by
    interval_cases i <;> simp [encode, place, rowMask, rowMatch]

theorem addImm (dr sr1 : Reg) (imm : BitVec 5) : Statement (.addImm dr sr1 imm) :=
  BitVec.eq_of_getLsbD_eq fun i hi => by
    interval_cases i <;> simp [encode, place, rowMask, rowMatch]

theorem ld (dr : Reg) (off : BitVec 9) : Statement (.ld dr off) :=
  BitVec.eq_of_getLsbD_eq fun i hi => by
    interval_cases i <;> simp [encode, place, rowMask, rowMatch]

theorem st (sr : Reg) (off : BitVec 9) : Statement (.st sr off) :=
  BitVec.eq_of_getLsbD_eq fun i hi => by
    interval_cases i <;> simp [encode, place, rowMask, rowMatch]

theorem jsrr (base : Reg) : Statement (.jsrr base) :=
  BitVec.eq_of_getLsbD_eq fun i hi => by
    interval_cases i <;> simp [encode, place, rowMask, rowMatch]

theorem jsr (off : BitVec 11) : Statement (.jsr off) :=
  BitVec.eq_of_getLsbD_eq fun i hi => by
    interval_cases i <;> simp [encode, place, rowMask, rowMatch]

theorem andReg (dr sr1 sr2 : Reg) : Statement (.andReg dr sr1 sr2) :=
  BitVec.eq_of_getLsbD_eq fun i hi => by
    interval_cases i <;> simp [encode, place, rowMask, rowMatch]

theorem andImm (dr sr1 : Reg) (imm : BitVec 5) : Statement (.andImm dr sr1 imm) :=
  BitVec.eq_of_getLsbD_eq fun i hi => by
    interval_cases i <;> simp [encode, place, rowMask, rowMatch]

theorem ldr (dr base : Reg) (off : BitVec 6) : Statement (.ldr dr base off) :=
  BitVec.eq_of_getLsbD_eq fun i hi => by
    interval_cases i <;> simp [encode, place, rowMask, rowMatch]

theorem str (sr base : Reg) (off : BitVec 6) : Statement (.str sr base off) :=
  BitVec.eq_of_getLsbD_eq fun i hi => by
    interval_cases i <;> simp [encode, place, rowMask, rowMatch]

theorem reserved8 : Statement .reserved8 := by unfold Statement; decide

theorem not (dr sr : Reg) : Statement (.not dr sr) :=
  BitVec.eq_of_getLsbD_eq fun i hi => by
    interval_cases i <;> simp [encode, place, rowMask, rowMatch]

theorem ldi (dr : Reg) (off : BitVec 9) : Statement (.ldi dr off) :=
  BitVec.eq_of_getLsbD_eq fun i hi => by
    interval_cases i <;> simp [encode, place, rowMask, rowMatch]

theorem sti (sr : Reg) (off : BitVec 9) : Statement (.sti sr off) :=
  BitVec.eq_of_getLsbD_eq fun i hi => by
    interval_cases i <;> simp [encode, place, rowMask, rowMatch]

theorem jmp (base : Reg) : Statement (.jmp base) :=
  BitVec.eq_of_getLsbD_eq fun i hi => by
    interval_cases i <;> simp [encode, place, rowMask, rowMatch]

theorem reserved13 : Statement .reserved13 := by unfold Statement; decide

theorem lea (dr : Reg) (off : BitVec 9) : Statement (.lea dr off) :=
  BitVec.eq_of_getLsbD_eq fun i hi => by
    interval_cases i <;> simp [encode, place, rowMask, rowMatch]

theorem trap (vec : BitVec 8) : Statement (.trap vec) :=
  BitVec.eq_of_getLsbD_eq fun i hi => by
    interval_cases i <;> simp [encode, place, rowMask, rowMatch]

theorem getc : Statement .getc := by unfold Statement; decide

theorem out : Statement .out := by unfold Statement; decide

theorem puts : Statement .puts := by unfold Statement; decide

theorem inp : Statement .inp := by unfold Statement; decide

theorem putsp : Statement .putsp := by unfold Statement; decide

theorem halt : Statement .halt := by unfold Statement; decide

end Sys2Proof.Laws.RowWord
end

