-- ==== Sys2Proof/Laws/Trap.lean ====
section
/-! SUPPORT. What the service routines can do, said once for each (spec/44_trap.md R112 to R120). -/

namespace Sys2Proof.Machine

/-! ### GETC and IN at their `KbdGetc` line -/

/-- All that GETC can do from its `KbdGetc` line on: go on waiting, or take the character at the head of the queue. -/
theorem State.getcRead_cases (s : State) :
    (s.deliver.kbdQ = [] ∧ s.getcRead = s.deliver.suspend .getc) ∨
    (∃ c q, s.deliver.kbdQ = c :: q ∧
      s.getcRead = ((({ s.deliver with kbdQ := q } : State).writeRegCC .r0 (zext8 c)).finish)) := by
  unfold State.getcRead State.kbdGetc
  obtain ⟨hq, h⟩ | ⟨c, q, hq, h⟩ := s.kbdTake_cases
  · exact .inl ⟨hq, by rw [h]⟩
  · exact .inr ⟨c, q, hq, by rw [h]⟩

/-- All that IN can do from its `KbdGetc` line on. -/
theorem State.inpRead_cases (s : State) :
    (s.deliver.kbdQ = [] ∧ s.inpRead = s.deliver.suspend .inp) ∨
    (∃ c q, s.deliver.kbdQ = c :: q ∧
      s.inpRead = ((((({ s.deliver with kbdQ := q } : State).outEmit c).writeRegCC .r0 (zext8 c)).outEmit
        s.deliver.params.newline).outFlush.finish)) := by
  unfold State.inpRead State.kbdGetc
  obtain ⟨hq, h⟩ | ⟨c, q, hq, h⟩ := s.kbdTake_cases
  · exact .inl ⟨hq, by rw [h]⟩
  · exact .inr ⟨c, q, hq, by rw [h]⟩

/-- The prompt of IN: its bytes appended and flushed, nothing else. -/
theorem State.inpPrompt_eq (s : State) : s.inpPrompt = { s with out := s.out ++ s.params.inPrompt, unflushed := 0 } := by
  simp [State.inpPrompt, State.outEmitAll_eq, State.outFlush]

/-- HALT: the notice appended and flushed, `run` HALTED, nothing else. -/
theorem State.haltRoutine_eq (s : State) :
    s.haltRoutine = { s with out := s.out ++ s.params.haltNotice, unflushed := 0, run := .halted } := by
  simp [State.haltRoutine, State.outEmitAll_eq, State.outFlush]

/-! ### PUTS and PUTSP -/

/-- What the loop of a string routine may change: memory and the keyboard by its reads, the output, and how it ended. -/
structure StringFrame (s t : State) : Prop where
  /-- every other field stays -/
  rest : t = { s with mem := t.mem, kbdQ := t.kbdQ, arrivals := t.arrivals, out := t.out, unflushed := t.unflushed,
                      pending := t.pending }
  /-- no cell but the two device cells changes (R120) -/
  cells : ∀ a, a ≠ s.params.kbsrAddr → a ≠ s.params.kbdrAddr → t.cell a = s.cell a
  /-- memory stays in its canonical form -/
  wf : Memory.wf s.mem = true → Memory.wf t.mem = true
  /-- `out` only grows (R23) -/
  grows : s.out <+: t.out

theorem StringFrame.refl (s : State) : StringFrame s s := ⟨rfl, fun _ _ _ => rfl, id, List.prefix_rfl⟩

theorem StringFrame.trans {s u t : State} (h1 : StringFrame s u) (h2 : StringFrame u t) : StringFrame s t := by
  have hp : u.params = s.params := by rw [h1.rest]
  refine ⟨?_, fun a ha hb => ?_, fun h => h2.wf (h1.wf h), h1.grows.trans h2.grows⟩
  · rw [h2.rest, h1.rest]
  · rw [h2.cells a (by rw [hp]; exact ha) (by rw [hp]; exact hb), h1.cells a ha hb]

theorem StringFrame.read (s : State) (a : Word) : StringFrame s (s.memRead a).2 :=
  ⟨by rw [s.memRead_eq a], fun _ h1 h2 => s.memRead_cell_ne a h1 h2, State.memRead_wf a, by rw [s.memRead_out]⟩

theorem StringFrame.emit (s : State) (b : Byte) : StringFrame s (s.outEmit b) :=
  ⟨rfl, fun _ _ _ => rfl, id, List.prefix_append _ _⟩

theorem StringFrame.flush (s : State) : StringFrame s s.outFlush.finish := ⟨rfl, fun _ _ _ => rfl, id, List.prefix_rfl⟩

theorem StringFrame.suspend (s : State) (p : Routine) : StringFrame s (s.suspend p) :=
  ⟨rfl, fun _ _ _ => rfl, id, List.prefix_rfl⟩

/-- All that the loop of PUTS can change. -/
theorem State.putsLoop_frame (n : Nat) : ∀ (a : Word) (s : State), StringFrame s (State.putsLoop n a s) := by
  induction n with
  | zero => intro a s; exact .suspend s _
  | succ n ih =>
    intro a s
    unfold State.putsLoop
    split
    · exact (StringFrame.read s a).trans (.flush _)
    · exact ((StringFrame.read s a).trans (.emit _ _)).trans (ih _ _)

/-- All that the loop of PUTSP can change. -/
theorem State.putspLoop_frame (n : Nat) : ∀ (a : Word) (s : State), StringFrame s (State.putspLoop n a s) := by
  induction n with
  | zero => intro a s; exact .suspend s _
  | succ n ih =>
    intro a s
    unfold State.putspLoop
    split
    · exact (StringFrame.read s a).trans (.flush _)
    · split
      · exact ((StringFrame.read s a).trans (.emit _ _)).trans (.flush _)
      · exact (((StringFrame.read s a).trans (.emit _ _)).trans (.emit _ _)).trans (ih _ _)

/-- The address counter after one word and then `n` more. -/
theorem addr_succ (a : Word) (n : Nat) : a + 1 + BitVec.ofNat 16 n = a + BitVec.ofNat 16 (n + 1) := by
  rw [BitVec.add_assoc, BitVec.ofNat_add, BitVec.add_comm 1]
  rfl

/-- How the loop of PUTS ends: flushed and finished, or suspended after `n` words. -/
theorem State.putsLoop_ends (n : Nat) : ∀ (a : Word) (s : State),
    ((State.putsLoop n a s).pending = none ∧ (State.putsLoop n a s).unflushed = 0) ∨
    (State.putsLoop n a s).pending = some (.puts (a + BitVec.ofNat 16 n)) := by
  induction n with
  | zero => intro a s; right; simp [State.putsLoop]
  | succ n ih =>
    intro a s
    unfold State.putsLoop
    split
    · left; exact ⟨rfl, rfl⟩
    · obtain h | h := ih (a + 1) ((s.memRead a).2.outEmit (lowByte (s.memRead a).1))
      · exact .inl h
      · right; rw [h, addr_succ]

/-- How the loop of PUTSP ends: flushed and finished, or suspended after `n` words. -/
theorem State.putspLoop_ends (n : Nat) : ∀ (a : Word) (s : State),
    ((State.putspLoop n a s).pending = none ∧ (State.putspLoop n a s).unflushed = 0) ∨
    (State.putspLoop n a s).pending = some (.putsp (a + BitVec.ofNat 16 n)) := by
  induction n with
  | zero => intro a s; right; simp [State.putspLoop]
  | succ n ih =>
    intro a s
    unfold State.putspLoop
    split
    · left; exact ⟨rfl, rfl⟩
    · split
      · left; exact ⟨rfl, rfl⟩
      · obtain h | h := ih (a + 1)
          (((s.memRead a).2.outEmit (lowByte (s.memRead a).1)).outEmit (highByte (s.memRead a).1))
        · exact .inl h
        · right; rw [h, addr_succ]

/-! ### The dispatch (R110) -/

/-- All that the dispatch can do, by vector. -/
theorem State.trapDispatch_cases (s : State) (vec : BitVec 8) :
    (vec = 0x20 ∧ s.trapDispatch vec = s.getcRoutine) ∨ (vec = 0x21 ∧ s.trapDispatch vec = s.outRoutine) ∨
    (vec = 0x22 ∧ s.trapDispatch vec = s.putsRoutine) ∨ (vec = 0x23 ∧ s.trapDispatch vec = s.inpRoutine) ∨
    (vec = 0x24 ∧ s.trapDispatch vec = s.putspRoutine) ∨ (vec = 0x25 ∧ s.trapDispatch vec = s.haltRoutine) ∨
    (definedVector vec = false ∧ s.trapDispatch vec = s.unknownVector) := by
  by_cases h0 : vec = 0x20
  · subst h0; exact .inl ⟨rfl, rfl⟩
  by_cases h1 : vec = 0x21
  · subst h1; exact .inr (.inl ⟨rfl, rfl⟩)
  by_cases h2 : vec = 0x22
  · subst h2; exact .inr (.inr (.inl ⟨rfl, rfl⟩))
  by_cases h3 : vec = 0x23
  · subst h3; exact .inr (.inr (.inr (.inl ⟨rfl, rfl⟩)))
  by_cases h4 : vec = 0x24
  · subst h4; exact .inr (.inr (.inr (.inr (.inl ⟨rfl, rfl⟩))))
  by_cases h5 : vec = 0x25
  · subst h5; exact .inr (.inr (.inr (.inr (.inr (.inl ⟨rfl, rfl⟩)))))
  have ne : ∀ k : Nat, k < 256 → vec ≠ BitVec.ofNat 8 k → vec.toNat ≠ k := by
    intro k hk hv e
    exact hv (BitVec.eq_of_toNat_eq (by rw [e, BitVec.toNat_ofNat, Nat.mod_eq_of_lt hk]))
  have n0 := ne 0x20 (by decide) h0
  have n1 := ne 0x21 (by decide) h1
  have n2 := ne 0x22 (by decide) h2
  have n3 := ne 0x23 (by decide) h3
  have n4 := ne 0x24 (by decide) h4
  have n5 := ne 0x25 (by decide) h5
  refine .inr (.inr (.inr (.inr (.inr (.inr ⟨?_, ?_⟩)))))
  · simp only [definedVector, Bool.and_eq_false_iff, decide_eq_false_iff_not, BitVec.le_def]
    simp only [BitVec.reduceToNat]
    omega
  · unfold State.trapDispatch
    split <;> first | contradiction | rfl

end Sys2Proof.Machine
end

