-- ==== Sys2Proof/Laws/Strings.lean ====
section
/-! SUPPORT. What a string routine can do where its string ends before KBSR_ADDR: it makes no poll. -/

namespace Sys2Proof.Machine

/-- `t` has the memory and the input of `s`. -/
structure SameDevices (s t : State) : Prop where
  mem : t.mem = s.mem
  kbdQ : t.kbdQ = s.kbdQ
  arrivals : t.arrivals = s.arrivals

/-- A string that does not reach KBSR_ADDR does not start there, and if its first word goes on, neither does the rest reach it. -/
theorem not_stringReaches {ends : Word → Bool} {s : State} {a : Word} (h : ¬ StringReaches ends s a) :
    a ≠ s.params.kbsrAddr ∧ (ends (s.cell a) = false → ¬ StringReaches ends s (a + 1)) := by
  have hne : a ≠ s.params.kbsrAddr := by
    rintro rfl
    exact h fun j hj => absurd hj (by simp)
  refine ⟨hne, fun hw hr => h fun j hj => ?_⟩
  cases j with
  | zero => simpa using hw
  | succ j =>
    rw [← addr_succ]
    refine hr j ?_
    have : (s.params.kbsrAddr - (a + 1)).toNat = (s.params.kbsrAddr - a).toNat - 1 := by bv_omega
    omega

/-- PUTS over a string that ends before KBSR_ADDR polls nothing and changes no cell. -/
theorem State.putsLoop_same (n : Nat) : ∀ (a : Word) (s : State), ¬ StringReaches endsPuts s a →
    SameDevices s (State.putsLoop n a s) := by
  induction n with
  | zero => intro a s _; exact ⟨rfl, rfl, rfl⟩
  | succ n ih =>
    intro a s h
    obtain ⟨ha, hn⟩ := not_stringReaches h
    unfold State.putsLoop
    rw [State.memRead_of_ne ha]
    split
    · exact ⟨rfl, rfl, rfl⟩
    · next hw =>
      obtain ⟨h1, h2, h3⟩ := ih (a + 1) (s.outEmit (lowByte (s.cell a))) (hn (by simpa [endsPuts] using hw))
      exact ⟨h1, h2, h3⟩

/-- PUTSP over a string that ends before KBSR_ADDR polls nothing and changes no cell. -/
theorem State.putspLoop_same (n : Nat) : ∀ (a : Word) (s : State), ¬ StringReaches endsPutsp s a →
    SameDevices s (State.putspLoop n a s) := by
  induction n with
  | zero => intro a s _; exact ⟨rfl, rfl, rfl⟩
  | succ n ih =>
    intro a s h
    obtain ⟨ha, hn⟩ := not_stringReaches h
    unfold State.putspLoop
    rw [State.memRead_of_ne ha]
    split
    · exact ⟨rfl, rfl, rfl⟩
    · next hl =>
      split
      · exact ⟨rfl, rfl, rfl⟩
      · next hh =>
        obtain ⟨h1, h2, h3⟩ := ih (a + 1) ((s.outEmit (lowByte (s.cell a))).outEmit (highByte (s.cell a)))
          (hn (by simpa [endsPutsp] using ⟨hl, hh⟩))
        exact ⟨h1, h2, h3⟩

end Sys2Proof.Machine
end

