-- ==== Sys2Proof/Tests/Slice0.lean ====
section
/-! SUPPORT. The model's own tests: the WellFormed smoke, the decoding of words the spec writes out, one-step tests whose expected values
are the vectors of spec/95_test_vectors.md, and for each obligation with hypotheses a witness that meets them together. -/

namespace Sys2Proof.Tests

open Sys2Proof Sys2Proof.Machine

/-! ### The WellFormed smoke: the one check of WellFormed refuses each of its ill-formed terms, and only those -/

theorem test_trap_getc_ill_formed : (Instr.trap 0x20).WellFormed = false := by decide
theorem test_trap_out_ill_formed : (Instr.trap 0x21).WellFormed = false := by decide
theorem test_trap_puts_ill_formed : (Instr.trap 0x22).WellFormed = false := by decide
theorem test_trap_in_ill_formed : (Instr.trap 0x23).WellFormed = false := by decide
theorem test_trap_putsp_ill_formed : (Instr.trap 0x24).WellFormed = false := by decide
theorem test_trap_halt_ill_formed : (Instr.trap 0x25).WellFormed = false := by decide
theorem test_trap_neighbours_well_formed :
    (Instr.trap 0x1F).WellFormed = true ∧ (Instr.trap 0x26).WellFormed = true := by decide

/-! ### Decoding: words written out field by field from the formats of spec/30_encoding.md R52 and R56, and the words of
spec/95_test_vectors.md 2.2 -/

/-- opcode 0000, n z p 010, PCoffset9 000000011: `BRz +3`; and the all-zero word -/
theorem test_decode_br : decode 0b0000_010_000000011 = .br 0b010 3 ∧ decode 0x0000 = .br 0b000 0 := by decide
/-- opcode 0001, DR 010, SR1 011, I 0, ignored 11, SR2 100 (0x14DC) -/
theorem test_decode_addReg : decode 0b0001_010_011_0_11_100 = .addReg .r2 .r3 .r4 := by decide
/-- opcode 0001, DR 001, SR1 001, I 1, imm5 11111 (0x127F) -/
theorem test_decode_addImm : decode 0b0001_001_001_1_11111 = .addImm .r1 .r1 0b11111 := by decide
/-- opcode 0010, DR 100, PCoffset9 000000101 (0x2805) -/
theorem test_decode_ld : decode 0b0010_100_000000101 = .ld .r4 5 := by decide
/-- opcode 0011, SR 011, PCoffset9 111111111 (0x37FF) -/
theorem test_decode_st : decode 0b0011_011_111111111 = .st .r3 0x1FF := by decide
/-- opcode 0100, L 0, ignored 11, BaseR 000, ignored 111111 (0x463F) -/
theorem test_decode_jsrr : decode 0b0100_0_11_000_111111 = .jsrr .r0 := by decide
/-- opcode 0100, L 1, PCoffset11 10000000000 (0x4C00) -/
theorem test_decode_jsr : decode 0b0100_1_10000000000 = .jsr 0x400 := by decide
/-- opcode 0101, DR 011, SR1 001, I 0, ignored 00, SR2 010 (0x5642) -/
theorem test_decode_andReg : decode 0b0101_011_001_0_00_010 = .andReg .r3 .r1 .r2 := by decide
/-- opcode 0101, DR 001, SR1 010, I 1, imm5 10000 (0x52B0) -/
theorem test_decode_andImm : decode 0b0101_001_010_1_10000 = .andImm .r1 .r2 0b10000 := by decide
/-- opcode 0110, DR 010, BaseR 001, offset6 111111 (0x647F) -/
theorem test_decode_ldr : decode 0b0110_010_001_111111 = .ldr .r2 .r1 0b111111 := by decide
/-- opcode 0111, SR 100, BaseR 110, offset6 100000 (0x79A0) -/
theorem test_decode_str : decode 0b0111_100_110_100000 = .str .r4 .r6 0b100000 := by decide
theorem test_decode_reserved8 : decode 0x8000 = .reserved8 ∧ decode 0x8FFF = .reserved8 := by decide
/-- opcode 1001, DR 001, SR 010, ignored 000000 (0x9280); the canonical 0x92BF is the same -/
theorem test_decode_not : decode 0b1001_001_010_000000 = .not .r1 .r2 ∧ decode 0x92BF = .not .r1 .r2 := by decide
/-- opcode 1010, DR 001, PCoffset9 000000010 (0xA202) -/
theorem test_decode_ldi : decode 0b1010_001_000000010 = .ldi .r1 2 := by decide
/-- opcode 1011, SR 101, PCoffset9 000000110 (0xBA06) -/
theorem test_decode_sti : decode 0b1011_101_000000110 = .sti .r5 6 := by decide
/-- opcode 1100, ignored 111, BaseR 111, ignored 111111 (0xCFFF) -/
theorem test_decode_jmp : decode 0b1100_111_111_111111 = .jmp .r7 := by decide
theorem test_decode_reserved13 : decode 0xD000 = .reserved13 ∧ decode 0xDFFF = .reserved13 := by decide
/-- opcode 1110, DR 000, PCoffset9 000000001 (0xE001) -/
theorem test_decode_lea : decode 0b1110_000_000000001 = .lea .r0 1 := by decide
theorem test_decode_trap :
    decode 0xF026 = .trap 0x26 ∧ decode 0xF000 = .trap 0x00 ∧ decode 0xFFFF = .trap 0xFF := by decide
/-- R60: bits 11..8 are ignored, so 0xF120 is GETC and 0xFF25 is HALT -/
theorem test_decode_routines :
    decode 0xF020 = .getc ∧ decode 0xF120 = .getc ∧ decode 0xF021 = .out ∧ decode 0xF022 = .puts ∧ decode 0xF023 = .inp ∧
    decode 0xF024 = .putsp ∧ decode 0xF025 = .halt ∧ decode 0xFF25 = .halt := by decide

/-- R62's words, from spec/95_test_vectors.md -/
theorem test_encode_words :
    encode (.addImm .r1 .r1 0x1F) = 0x127F ∧ encode (.not .r1 .r2) = 0x92BF ∧ encode (.jmp .r7) = 0xC1C0 ∧
    encode (.jsrr .r3) = 0x40C0 ∧ encode (.str .r4 .r6 0x20) = 0x79A0 ∧ encode (.br 0b100 0x100) = 0x0900 := by decide

theorem test_decodeTableWord :
    decodeTableWord 16 0xA202 = some (.ldi .r1 2) ∧ decodeTableWord 8 0x21 = some (.br 0 0x21) ∧
    decodeTableWord 32 0xA202 = none ∧ decodeTableWord 16 0x10000 = none := by decide

/-- R53: spec/95_test_vectors.md 2.1 -/
theorem test_sign_extension :
    sext5 0b01111 = 0x000F ∧ sext5 0b10000 = 0xFFF0 ∧ sext6 0b011111 = 0x001F ∧ sext6 0b100000 = 0xFFE0 ∧
    sext9 0x0FF = 0x00FF ∧ sext9 0x100 = 0xFF00 ∧ sext11 0x3FF = 0x03FF ∧ sext11 0x400 = 0xFC00 := by decide

/-! ### One step each. Expected values: spec/95_test_vectors.md 2.3 to 2.8 -/

/-- The reset machine with the word `w` at 0x3000 and the registers `x`. -/
def at3000 (w : Word) (x : Regs) : State := { State.reset.withFetchWord 16 w.toNat with regs := x }

/-- All registers zero. -/
def zeros : Regs := ⟨0, 0, 0, 0, 0, 0, 0, 0⟩

/-- The step from `s` answers a next state in which `p` holds. -/
def stepGives (s : State) (p : State → Bool) : Bool :=
  match step s with
  | .next t => p t
  | .fault _ => false
  | .refused _ => false

/-- The meaning of `i` in `s` answers a next state in which `p` holds. -/
def execGives (i : Instr) (s : State) (p : State → Bool) : Bool :=
  match exec i s with
  | .next t => p t
  | .fault _ => false
  | .refused _ => false

theorem test_add_reg_wraps_to_negative :
    stepGives (at3000 0x1001 { zeros with r0 := 0x7FFF, r1 := 1 })
      (fun t => t.reg .r0 == 0x8000 && t.cond == 0b100 && t.pc == 0x3001) = true := by decide
theorem test_add_reg_wraps_to_zero :
    stepGives (at3000 0x1001 { zeros with r0 := 0x8000, r1 := 0x8000 })
      (fun t => t.reg .r0 == 0 && t.cond == 0b010 && t.reg .r1 == 0x8000) = true := by decide
theorem test_add_imm_negative :
    stepGives (at3000 0x127F zeros) (fun t => t.reg .r1 == 0xFFFF && t.cond == 0b100) = true := by decide
theorem test_and_reg :
    stepGives (at3000 0x5642 { zeros with r1 := 0xF0F0, r2 := 0xFF00 })
      (fun t => t.reg .r3 == 0xF000 && t.cond == 0b100) = true := by decide
theorem test_and_imm :
    stepGives (at3000 0x52B0 { zeros with r2 := 0x12FF }) (fun t => t.reg .r1 == 0x12F0 && t.cond == 0b001) = true := by decide
theorem test_not :
    stepGives (at3000 0x96FF { zeros with r3 := 0x8000 }) (fun t => t.reg .r3 == 0x7FFF && t.cond == 0b001) = true := by decide
theorem test_br_taken :
    stepGives (at3000 0x0403 zeros) (fun t => t.pc == 0x3004 && t.cond == 0b010) = true := by decide
theorem test_br_not_taken :
    stepGives { at3000 0x0403 zeros with cond := 0b001 } (fun t => t.pc == 0x3001) = true := by decide
theorem test_jmp :
    stepGives (at3000 0xC080 { zeros with r2 := 0x4000 }) (fun t => t.pc == 0x4000 && t.reg .r7 == 0) = true := by decide
theorem test_jsr :
    stepGives (at3000 0x4C00 zeros) (fun t => t.reg .r7 == 0x3001 && t.pc == 0x2C01) = true := by decide
theorem test_jsrr :
    stepGives (at3000 0x40C0 { zeros with r3 := 0x5000 }) (fun t => t.reg .r7 == 0x3001 && t.pc == 0x5000) = true := by decide
theorem test_jsrr_r7_falls_through :
    stepGives (at3000 0x41C0 { zeros with r7 := 0x5000 }) (fun t => t.reg .r7 == 0x3001 && t.pc == 0x3001) = true := by decide
theorem test_ld :
    stepGives ((at3000 0x2805 zeros).setCell 0x3006 0x8001) (fun t => t.reg .r4 == 0x8001 && t.cond == 0b100) = true := by decide
theorem test_ld_own_cell :
    stepGives (at3000 0x21FF zeros) (fun t => t.reg .r0 == 0x21FF && t.cond == 0b001) = true := by decide
theorem test_ldi :
    stepGives (((at3000 0xA202 zeros).setCell 0x3003 0x4000).setCell 0x4000 0xBEEF)
      (fun t => t.reg .r1 == 0xBEEF && t.cond == 0b100) = true := by decide
theorem test_ldr_base_is_destination :
    stepGives ((at3000 0x6240 { zeros with r1 := 0x4000 }).setCell 0x4000 0x0007)
      (fun t => t.reg .r1 == 0x0007 && t.cond == 0b001) = true := by decide
theorem test_ldr_wraps :
    stepGives ((at3000 0x6460 { zeros with r1 := 0x0010 }).setCell 0xFFF0 0x1234) (fun t => t.reg .r2 == 0x1234) = true := by
  decide
theorem test_lea :
    stepGives (at3000 0xE1FE zeros) (fun t => t.reg .r0 == 0x2FFF && t.cond == 0b001) = true := by decide
theorem test_lea_wraps :
    stepGives ({ State.reset with pc := 0xFFFF, cond := 0b100 }.withFetchWord 16 0xE600)
      (fun t => t.reg .r3 == 0 && t.cond == 0b010 && t.pc == 0) = true := by decide
theorem test_st :
    stepGives (at3000 0x3604 { zeros with r3 := 0xABCD }) (fun t => t.cell 0x3005 == 0xABCD && t.cond == 0b010) = true := by decide
theorem test_st_own_cell :
    stepGives (at3000 0x37FF zeros) (fun t => t.mem == [] && t.pc == 0x3001) = true := by decide
theorem test_sti :
    stepGives ((at3000 0xBA06 { zeros with r5 := 0x1111 }).setCell 0x3007 0x5000)
      (fun t => t.cell 0x5000 == 0x1111 && t.cell 0x3007 == 0x5000) = true := by decide
theorem test_str :
    stepGives (at3000 0x7842 { zeros with r4 := 0xFFFE, r1 := 0x300A })
      (fun t => t.cell 0x300C == 0xFFFE && t.cond == 0b010) = true := by decide
theorem test_getc :
    stepGives { at3000 0xF020 zeros with kbdQ := [0xFF], cond := 0b100 }
      (fun t => t.reg .r0 == 0x00FF && t.cond == 0b001 && t.reg .r7 == 0x3001 && t.kbdQ == [] && t.out == []) = true := by decide
theorem test_getc_waits :
    stepGives (at3000 0xF020 zeros) (fun t => t.reg .r7 == 0x3001 && t.pc == 0x3001 && t.pending == some .getc) = true := by decide
theorem test_out :
    stepGives (at3000 0xF021 { zeros with r0 := 0x1241 }) (fun t => t.out == [0x41] && t.reg .r7 == 0x3001) = true := by decide
theorem test_puts_low_bytes :
    stepGives (((at3000 0xF022 { zeros with r0 := 0x4000 }).setCell 0x4000 0x0100).setCell 0x4001 0x0141)
      (fun t => t.out == [0x00, 0x41] && t.pending == none && t.unflushed == 0) = true := by decide
theorem test_puts_wraps :
    stepGives (((at3000 0xF022 { zeros with r0 := 0xFFFF }).setCell 0xFFFF 0x0041).setCell 0x0000 0x0042)
      (fun t => t.out == [0x41, 0x42] && t.reg .r0 == 0xFFFF) = true := by decide
theorem test_in :
    stepGives { at3000 0xF023 zeros with kbdQ := [0x61] }
      (fun t => t.out == defaultInPrompt ++ [0x61, 0x0A] && t.reg .r0 == 0x0061 && t.cond == 0b001) = true := by decide
theorem test_in_prompts_before_it_waits :
    stepGives (at3000 0xF023 zeros) (fun t => t.out.length == 19 && t.pending == some .inp) = true := by decide
theorem test_putsp :
    stepGives (((at3000 0xF024 { zeros with r0 := 0x4000 }).setCell 0x4000 0x6548).setCell 0x4001 0x006C)
      (fun t => t.out == [0x48, 0x65, 0x6C] && t.cond == 0b010) = true := by decide
theorem test_putsp_zero_low_byte :
    stepGives ((at3000 0xF024 { zeros with r0 := 0x4000 }).setCell 0x4000 0x4100) (fun t => t.out == []) = true := by decide
theorem test_halt :
    stepGives (at3000 0xF025 zeros)
      (fun t => t.out == [0x48, 0x41, 0x4C, 0x54, 0x0A] && t.run == .halted && t.fault == .none && t.hostStatus == some 0) = true := by
  decide
theorem test_unknown_trap_faults :
    stepGives (at3000 0xF01F zeros)
      (fun t => t.run == .halted && t.fault == .unknownTrap && t.reg .r7 == 0x3001 && t.hostStatus == some 1) = true := by decide
theorem test_unknown_trap_does_nothing_by_policy :
    stepGives { at3000 0xF026 zeros with params := { defaultParams with unknownTrapPolicy := .noop } }
      (fun t => t.run == .running && t.fault == .none && t.reg .r7 == 0x3001 && t.pc == 0x3001) = true := by decide
theorem test_reserved8 :
    stepGives (at3000 0x8ABC zeros)
      (fun t => t.run == .halted && t.fault == .reservedOpcode && t.pc == 0x3001 && t.regs == zeros) = true := by decide
theorem test_reserved13 :
    stepGives (at3000 0xD000 zeros) (fun t => t.fault == .reservedOpcode && t.out == [] && t.hostStatus == some 1) = true := by decide

/-- `LDI R1,+1` at 0xFDFE, so the pointer read is of KBSR_ADDR; with a character its cell then names KBSR_ADDR again. -/
def twoPolls (batches : List (List Byte)) : State :=
  { ({ State.reset with pc := 0xFDFE }.withFetchWord 16 0xA201).setCell 0xFE00 0x7E00 with arrivals := batches }

/-! ### The keyboard cells, the fetch and the loader: spec/95_test_vectors.md 2.6, 2.8, 2.9 -/

/-- 2.6 row 4 -/
theorem test_probe_takes_character :
    (({ State.reset with kbdQ := [0x61, 0x62] } : State).memRead 0xFE00).1 = 0x8000 ∧
    (({ State.reset with kbdQ := [0x61, 0x62] } : State).memRead 0xFE00).2.cell 0xFE02 = 0x0061 ∧
    (({ State.reset with kbdQ := [0x61, 0x62] } : State).memRead 0xFE00).2.kbdQ = [0x62] := by decide
/-- 2.6 rows 9 and 11 -/
theorem test_probe_keeps_low_bits :
    ((State.reset.setCell 0xFE00 0x1234).memRead 0xFE00).1 = 0x1234 ∧
    (({ State.reset.setCell 0xFE00 0x1234 with kbdQ := [0x00] } : State).memRead 0xFE00).1 = 0x9234 := by decide
/-- 2.8 row 6: a fetch at KBSR_ADDR polls -/
theorem test_fetch_polls :
    stepGives { State.reset with pc := 0xFE00, kbdQ := [0x25] }
      (fun t => t.cell 0xFE02 == 0x0025 && t.cell 0xFE00 == 0x8000 && t.kbdQ == [] && t.fault == .reservedOpcode &&
        t.pc == 0xFE01) = true := by decide
/-- 2.8 row 2 -/
theorem test_pc_wraps : stepGives { State.reset with pc := 0xFFFF } (fun t => t.pc == 0x0000) = true := by decide
/-- R78 (a), R22, R33: of an LDI whose two reads are both of KBSR_ADDR the second poll can see a character the host appends between them -/
theorem test_batch_lands_between_two_polls :
    stepGives (twoPolls [[0x61], [0x62]]) (fun t => t.reg .r1 == 0xFE00 && t.cond == 0b100 && t.cell 0xFE02 == 0x0062) = true ∧
    stepGives (twoPolls [[0x61]]) (fun t => t.reg .r1 == 0x7E00 && t.cond == 0b001 && t.cell 0xFE02 == 0x0061) = true := by decide
/-- 2.9 -/
theorem test_loader :
    (State.reset.loadImage [0x30, 0x00, 0x12, 0x34, 0xAB, 0xCD]).mem = [(0x3000, 0x1234), (0x3001, 0xABCD)] ∧
    (State.reset.loadImage [0x30, 0x00]).mem = [] ∧ (State.reset.loadImage [0x30]).mem = [] ∧
    (State.reset.loadImage [0x30, 0x00, 0x12, 0x34, 0xAB]).mem = [(0x3000, 0x1234)] ∧
    (State.reset.loadImage [0xFF, 0xFF, 0x00, 0x01, 0x00, 0x02]).mem = [(0xFFFF, 0x0001)] := by decide
/-- R158: after an image that cannot be opened no run follows -/
theorem test_failed_load : boot defaultParams [some [0x30, 0x00, 0x12, 0x34], none] = none := by decide

/-! ### A witness for each obligation with hypotheses: one state and operands that meet them all; a boundary value for each clause -/

theorem witness_DecodeEncodeRoundTrip :
    (Instr.addImm .r7 .r0 0x10).WellFormed = true ∧ (Instr.trap 0x26).WellFormed = true := by decide

theorem witness_IgnoredBitsDoNotMatter :
    (0x9280 : Word) &&& ~~~(ignoredBits (decode 0x9280)) = 0x92BF &&& ~~~(ignoredBits (decode 0x9280)) ∧
    (0xFF25 : Word) &&& ~~~(ignoredBits (decode 0xFF25)) = 0xF025 &&& ~~~(ignoredBits (decode 0xFF25)) := by decide

/-- Both cases of the conclusion occur. -/
theorem witness_EachWordMatchesOneRow :
    (0xF025 : Word) &&& rowMask .halt = rowMatch .halt ∧ (0xF025 : Word) &&& rowMask (.trap 0) = rowMatch (.trap 0) := by decide

theorem witness_StepRunsFetchedInstruction :
    (at3000 0x1021 zeros).run = .running ∧ (at3000 0x1021 zeros).pending = none := by decide

theorem witness_PlacedInstructionRuns :
    (Instr.jsr 0x7FF).WellFormed = true ∧ Memory.wf State.reset.mem = true ∧ State.reset.pc ≠ State.reset.params.kbsrAddr := by
  decide

theorem witness_HaltedMachineStays : ({ State.reset with run := .halted, fault := .unknownTrap } : State).run = .halted := rfl

/-- Each flag alone meets the premise, and in the reset state the mask that names it is the one that branches. -/
theorem witness_BranchDecisionTable : oneFlag 0b100 = true ∧ oneFlag 0b010 = true ∧ oneFlag 0b001 = true := by decide

theorem witness_JumpThroughLinkReturns :
    stepGives (at3000 0x4802 zeros) (fun t => ({ t with pc := 0x4000, cond := 0b100 } : State).reg .r7 == t.reg .r7) = true := by
  decide

/-- The pointer and the data cell stand just beside KBSR_ADDR. -/
theorem witness_LdiReadsThroughPointer :
    State.reset.pc + (0x002 : BitVec 9).signExtend 16 ≠ State.reset.params.kbsrAddr ∧
    (State.reset.setCell 0x3002 0xFE01).cell (State.reset.pc + (0x002 : BitVec 9).signExtend 16) = 0xFE01 ∧
    (0xFE01 : Word) ≠ State.reset.params.kbsrAddr := by decide

theorem witness_StoresWriteOneCell : Memory.wf (State.reset.setCell 0xFE00 0x1234).mem = true := by decide

theorem witness_StiStoresThroughPointer : Memory.wf (State.reset.setCell 0x3001 0x5000).mem = true := by decide

theorem witness_StoredWordIsFetchedNext :
    Memory.wf State.reset.mem = true ∧ State.reset.run = .running ∧ State.reset.pending = none ∧
    State.reset.pc ≠ State.reset.params.kbsrAddr := by decide

/-- KBDR_ADDR and both neighbours of KBSR_ADDR are plain. -/
theorem witness_PlainReadsArePure :
    State.reset.params.kbdrAddr ≠ State.reset.params.kbsrAddr ∧ (0xFDFF : Word) ≠ State.reset.params.kbsrAddr ∧
    (0xFE01 : Word) ≠ State.reset.params.kbsrAddr := by decide

/-- A character in the queue, a character only in the next batch, and none. -/
theorem witness_StatusReadPollsKeyboard :
    Memory.wf State.reset.mem = true ∧ State.reset.params.kbsrAddr ≠ State.reset.params.kbdrAddr ∧
    ({ State.reset with kbdQ := [0x00] } : State).kbdQ ++ ({ State.reset with kbdQ := [0x00] } : State).arrivals.headD [] = [0x00] ∧
    ({ State.reset with arrivals := [[0x61]] } : State).kbdQ ++ ({ State.reset with arrivals := [[0x61]] } : State).arrivals.headD []
      = [0x61] ∧
    State.reset.kbdQ ++ State.reset.arrivals.headD [] = [] := by decide

/-- `LDI R0` through a pointer cell at 0x3001, a character pending. -/
def polling : State := { State.reset.setCell 0x3001 0xFE00 with kbdQ := [0x61], pc := 0x3000 }

theorem witness_LdiPollsKeyboard :
    Memory.wf polling.mem = true ∧ polling.params.kbsrAddr ≠ polling.params.kbdrAddr ∧
    polling.pc + (1 : BitVec 9).signExtend 16 ≠ polling.params.kbsrAddr ∧
    polling.cell (polling.pc + (1 : BitVec 9).signExtend 16) = polling.params.kbsrAddr ∧
    polling.kbdQ ++ polling.arrivals.headD [] = [0x61] := by decide

theorem witness_GetcReadsCharacter : polling.kbdQ ++ polling.arrivals.headD [] = 0x61 :: [] := by decide

theorem witness_InPromptsAndEchoes :
    ({ State.reset with kbdQ := [0x00, 0x41] } : State).kbdQ ++ ({ State.reset with kbdQ := [0x00, 0x41] } : State).arrivals.headD []
      = 0x00 :: [0x41] := by decide

/-- Nothing pending, with no batch planned and with an empty batch first. -/
theorem witness_GetcAndInWait :
    State.reset.kbdQ ++ State.reset.arrivals.headD [] = [] ∧
    ({ State.reset with arrivals := [[], [0x61]] } : State).kbdQ ++
      ({ State.reset with arrivals := [[], [0x61]] } : State).arrivals.headD [] = [] := by decide

theorem witness_WaitEndsWhenCharacterComes :
    State.reset.run = .running ∧ State.reset.kbdQ = [] ∧ State.reset.arrivals = [] := by decide

/-- "HI" at 0xFFFF, across the top of memory (spec/95_test_vectors.md S4, R114). -/
def hiString : State :=
  { (State.reset.setCell 0xFFFF 0x0048).setCell 0x0000 0x0049 with regs := { zeros with r0 := 0xFFFF } }

theorem witness_PutsEmitsString :
    [(0x0048 : Word), 0x0049].length < 65536 ∧ (∀ w ∈ [(0x0048 : Word), 0x0049], w ≠ 0) ∧
    (∀ k, k ≤ 2 → hiString.reg .r0 + BitVec.ofNat 16 k ≠ hiString.params.kbsrAddr) ∧
    (∀ k (h : k < 2), hiString.cell (hiString.reg .r0 + BitVec.ofNat 16 k) = [(0x0048 : Word), 0x0049][k]) ∧
    hiString.cell (hiString.reg .r0 + BitVec.ofNat 16 2) = 0 := by
  refine ⟨by decide, by simp, fun k hk => ?_, fun k hk => ?_, by decide⟩
  · obtain rfl | rfl | rfl : k = 0 ∨ k = 1 ∨ k = 2 := by omega
    all_goals decide
  · obtain rfl | rfl : k = 0 ∨ k = 1 := by omega
    all_goals rfl

/-- The empty string: the first word is the terminator. -/
theorem witness_PutsEmitsString_empty :
    (∀ w ∈ ([] : List Word), w ≠ 0) ∧ State.reset.reg .r0 + BitVec.ofNat 16 0 ≠ State.reset.params.kbsrAddr ∧
    State.reset.cell (State.reset.reg .r0 + BitVec.ofNat 16 0) = 0 := ⟨by simp, by decide, by decide⟩

/-- "Hel" (spec/95_test_vectors.md 2.7), and the zero low byte of 0x4100. -/
def helString : State :=
  { (State.reset.setCell 0x4000 0x6548).setCell 0x4001 0x006C with regs := { zeros with r0 := 0x4000 } }

theorem witness_PutspEmitsPackedString :
    [(0x6548 : Word)].length < 65536 ∧ (∀ w ∈ [(0x6548 : Word)], lowByte w ≠ 0 ∧ highByte w ≠ 0) ∧
    (lowByte 0x006C = 0 ∨ highByte 0x006C = 0) ∧
    (∀ k, k ≤ 1 → helString.reg .r0 + BitVec.ofNat 16 k ≠ helString.params.kbsrAddr) ∧
    (∀ k (h : k < 1), helString.cell (helString.reg .r0 + BitVec.ofNat 16 k) = [(0x6548 : Word)][k]) ∧
    helString.cell (helString.reg .r0 + BitVec.ofNat 16 1) = 0x006C := by
  refine ⟨by decide, by simp [lowByte, highByte], by decide, fun k hk => ?_, fun k hk => ?_, by decide⟩
  · obtain rfl | rfl : k = 0 ∨ k = 1 := by omega
    all_goals decide
  · obtain rfl : k = 0 := by omega
    rfl

theorem witness_PutspEmitsPackedString_zero_low_byte :
    lowByte 0x4100 = 0 ∧ highByte 0x4100 ≠ 0 ∧ (lowByte 0x0000 = 0 ∨ highByte 0x0000 = 0) := by decide

/-- Both neighbours of the defined range, under each policy. -/
theorem witness_UnknownTrapFollowsPolicy :
    definedVector 0x1F = false ∧ definedVector 0x26 = false ∧ definedVector 0x00 = false ∧ definedVector 0xFF = false ∧
    State.reset.params.unknownTrapPolicy = .fault ∧
    ({ defaultParams with unknownTrapPolicy := .noop } : Params).unknownTrapPolicy = .noop := by decide

theorem witness_ReservedOpcodesFault :
    (0x8000 : Word).extractLsb' 12 4 = 8#4 ∧ (0x8FFF : Word).extractLsb' 12 4 = 8#4 ∧ (0xD000 : Word).extractLsb' 12 4 = 13#4 ∧
    (0xDFFF : Word).extractLsb' 12 4 = 13#4 ∧
    ((0x7FFF : Word).extractLsb' 12 4 ≠ 8#4 ∧ (0x7FFF : Word).extractLsb' 12 4 ≠ 13#4) ∧
    ((0x9000 : Word).extractLsb' 12 4 ≠ 8#4 ∧ (0x9000 : Word).extractLsb' 12 4 ≠ 13#4) ∧
    ((0xE000 : Word).extractLsb' 12 4 ≠ 8#4 ∧ (0xE000 : Word).extractLsb' 12 4 ≠ 13#4) := by decide

theorem witness_OnlyNamedRegistersChange :
    execGives (.addImm .r1 .r1 1) State.reset (fun t => t.reg .r1 == 1) = true ∧ mayWriteReg (.addImm .r1 .r1 1) .r7 = false := by
  decide

/-- A flag updater, an instruction that is none, and a GETC that waits. -/
theorem witness_OnlyFlagUpdatersChangeCond :
    (execGives (.lea .r0 0) State.reset (fun t => t.cond == 0b001) = true ∧ mayWriteCond (.lea .r0 0) = true) ∧
    (execGives (.st .r0 0) State.reset (fun _ => true) = true ∧ mayWriteCond (.st .r0 0) = false) ∧
    (execGives .getc State.reset (fun t => t.pending == some .getc) = true ∧ mayWriteCond .getc = true) := by decide

/-- At the top of memory, and in the middle of a wait. -/
theorem witness_OnlyControlWritesPc :
    (∃ t, step { State.reset.setCell 0xFFFF 0x1021 with pc := 0xFFFF } = .next t ∧
      mayWritePc (decode (({ State.reset.setCell 0xFFFF 0x1021 with pc := 0xFFFF } : State).memRead 0xFFFF).1) = false) ∧
    (∃ t, step { State.reset with pending := some .getc } = .next t) := ⟨⟨_, rfl, by decide⟩, ⟨_, rfl⟩⟩

/-- A load that polls. -/
def pollingLoad : State := { State.reset with regs := { zeros with r1 := 0xFE00 }, kbdQ := [0x61] }

/-- A store and a cell beside the one stored to; a load that polls and a cell that is neither keyboard cell. -/
theorem witness_OnlyStoresAndProbeWriteMemory :
    (execGives (.st .r0 0) State.reset (fun _ => true) = true ∧ storeAddr State.reset (.st .r0 0) ≠ some 0x3001 ∧
      (0x3001 : Word) ≠ State.reset.params.kbsrAddr ∧ (0x3001 : Word) ≠ State.reset.params.kbdrAddr) ∧
    (execGives (.ldr .r0 .r1 0) pollingLoad (fun t => t.mem == [(0xFE00, 0x8000), (0xFE02, 0x0061)]) = true ∧
      storeAddr pollingLoad (.ldr .r0 .r1 0) ≠ some 0xFE01 ∧ (0xFE01 : Word) ≠ pollingLoad.params.kbsrAddr ∧
      (0xFE01 : Word) ≠ pollingLoad.params.kbdrAddr) := by decide

/-- "H" in the two cells just before KBSR_ADDR: its terminator is read, KBSR_ADDR is not. -/
def edgeString : State := { State.reset.setCell 0xFDFE 0x0048 with regs := { zeros with r0 := 0xFDFE }, kbdQ := [0x61] }

/-- The other clause, at KBSR_ADDR and KBDR_ADDR: forms that read nothing, a load and a string on either side of the edge. -/
theorem witness_OnlyStoresAndProbeWriteMemory_no_status_read :
    ¬ ReadsStatus State.reset (.addImm .r0 .r0 1) ∧ storeAddr State.reset (.addImm .r0 .r0 1) ≠ some 0xFE00 ∧
    ¬ ReadsStatus pollingLoad (.ldr .r0 .r1 1) ∧ ReadsStatus pollingLoad (.ldr .r0 .r1 0) ∧
    ¬ ReadsStatus edgeString .puts ∧ ReadsStatus (edgeString.setCell 0xFDFF 0x0049) .puts := by
  refine ⟨id, by decide, fun h => absurd (show pollingLoad.baseOff .r1 1 = pollingLoad.params.kbsrAddr from h) (by decide), rfl,
    fun h => absurd (h 1 (by decide)) (by decide), fun j hj => ?_⟩
  have hj : j < 2 := hj
  obtain rfl | rfl : j = 0 ∨ j = 1 := by omega
  all_goals rfl

/-- HALT, a reserved opcode and an unknown vector each halt. -/
theorem witness_OnlyThreeWaysToHalt :
    stepGives (at3000 0xF025 zeros) (fun t => t.run == .halted && t.fault == .none) = true ∧
    stepGives (at3000 0xD123 zeros) (fun t => t.run == .halted && t.fault == .reservedOpcode) = true ∧
    stepGives (at3000 0xF026 zeros) (fun t => t.run == .halted && t.fault == .unknownTrap) = true := by decide

theorem witness_ParametersNeverChange : ∃ t, step (at3000 0xF025 zeros) = .next t := ⟨_, rfl⟩

theorem witness_OutputOnlyGrows : ∃ t, step (at3000 0xF021 zeros) = .next t ∧ t.out = [0x00] := ⟨_, rfl, by decide⟩

theorem witness_OutputIsNeverRead : ∃ t, step (at3000 0xF023 zeros) = .next t ∧ t.out ≠ [] := ⟨_, rfl, by decide⟩

theorem witness_KeyboardIsFirstInFirstOut :
    ∃ t, step { at3000 0xF020 zeros with kbdQ := [0x61], arrivals := [[0x62], [0x63]] } = .next t ∧
      t.kbdQ = [0x62] ∧ t.arrivals = [[0x63]] := ⟨_, rfl, by decide⟩

/-- A step that takes nothing though a character is there: an ADD; and a halted machine. -/
theorem witness_KeyboardIsFirstInFirstOut_takes_nothing :
    ¬ TakesInput { at3000 0x1021 zeros with kbdQ := [0x61] } ∧ ¬ TakesInput { State.reset with run := .halted, kbdQ := [0x61] } := by
  refine ⟨fun h => ?_, fun h => by cases h.1⟩
  obtain e | e | e := h.2
  · exact absurd e (by decide)
  · exact e
  · exact absurd e (by decide)

/-- An image that ends at the last cell: the cells read inside, just before it, and past what the address space holds. -/
theorem witness_LoadPlacesWords :
    Memory.wf (State.reset.setCell 0x3000 0x1111).mem = true ∧
    ((0xFFFF : Word).toNat ≤ (0xFFFF : Word).toNat ∧ (0xFFFF : Word).toNat - (0xFFFF : Word).toNat < [(1 : Word), 2].length) ∧
    ¬ ((0xFFFF : Word).toNat ≤ (0xFFFE : Word).toNat) ∧ ¬ ((0xFFFF : Word).toNat ≤ (0x0000 : Word).toNat) := by decide

theorem witness_LastImageWins :
    Memory.wf State.reset.mem = true ∧ parseImage [0x30, 0x01, 0x33, 0x33] = some (0x3001, [0x3333]) ∧
    (State.reset.loadImages [some [0x30, 0x00, 0x11, 0x11, 0x22, 0x22], some [0x30, 0x01, 0x33, 0x33]]).map State.mem =
      some [(0x3000, 0x1111), (0x3001, 0x3333)] := by decide

theorem witness_ResetMeetsInvariant :
    paramsWf { defaultParams with kbsrAddr := 0x0000, kbdrAddr := 0xFFFF, condReset := 0b100, memReset := [(0xFFFF, 1)] } = true := by
  decide

/-- A waiting IN meets the invariant, and takes a step. -/
theorem witness_StepKeepsInvariant :
    Inv { State.reset with pending := some .inp, out := defaultInPrompt, kbdQ := [0x61] } ∧
    ∃ t, step { State.reset with pending := some .inp, out := defaultInPrompt, kbdQ := [0x61] } = .next t :=
  ⟨⟨by decide, by decide, fun h => absurd rfl h, fun _ => rfl, fun _ => rfl, by decide, by decide⟩, _, rfl⟩

/-- A run from an image, past a step and a character typed. -/
theorem witness_ReachableStatesMeetInvariant :
    ∃ t, step (State.reset.loadImage [0x30, 0x00, 0x10, 0x21]) = .next t ∧ Reachable (t.hostAppend [0x61]) :=
  ⟨_, rfl, .typed _ _ (.stepped (State.reset.loadImage [0x30, 0x00, 0x10, 0x21]) _
    (.booted defaultParams [some [0x30, 0x00, 0x10, 0x21]] _ (by decide) rfl) rfl)⟩

/-! ### Witnesses for the string loops: a string that ends at its first word, one that ends at the last cell of the first pass over
memory, and one that ends at the first cell of the second pass -/

theorem witness_PutsFollowsItsLoop_ends :
    (0 : Nat) < 65536 ∧ PutsLoopEnds 0 (State.reset.reg .r0) State.reset.link State.reset.link :=
  ⟨by decide, .stop _ _ _ (by decide)⟩

theorem witness_PutspFollowsItsLoop_ends :
    (0 : Nat) < 65536 ∧ PutspLoopEnds 0 (State.reset.reg .r0) State.reset.link State.reset.link :=
  ⟨by decide, .stopLow _ 0x0000 _ _ (by decide) (by decide)⟩

/-- Memory with 0x0101 in every cell that `keep` keeps, and nothing else. -/
@[irreducible] def fullMemory (keep : Nat → Bool) : Memory := ((List.range 65536).filter keep).map (fun k => (k, 0x0101))

theorem readNat_map (ns : List Nat) (v : Word) (a : Nat) :
    Memory.readNat (ns.map (fun k => (k, v))) a = if a ∈ ns then v else memFill := by
  induction ns with
  | nil => rfl
  | cons n ns ih =>
    simp only [List.map_cons, Memory.readNat, ih, List.mem_cons]
    by_cases h : n = a
    · simp [h]
    · simp [h, Ne.symm h]

theorem readNat_filter (ns : List Nat) (keep : Nat → Bool) (v : Word) (a : Nat) (h : a ∈ ns) :
    Memory.readNat ((ns.filter keep).map (fun k => (k, v))) a = if keep a then v else memFill := by
  rw [readNat_map]
  simp [List.mem_filter, h]

theorem fullMemory_read (keep : Nat → Bool) (a : Word) :
    Memory.read (fullMemory keep) a = if keep a.toNat then 0x0101 else 0 := by
  unfold fullMemory
  exact readNat_filter _ keep _ _ (List.mem_range.mpr a.isLt)

theorem wfFrom_map (ns : List Nat) (v : Word) (hv : v ≠ memFill) (hs : ns.Pairwise (· < ·)) (hb : ∀ n ∈ ns, n < 65536) :
    ∀ lo, (∀ n ∈ ns, lo ≤ n) → Memory.wfFrom lo (ns.map (fun k => (k, v))) = true := by
  induction ns with
  | nil => intro _ _; rfl
  | cons n ns ih =>
    intro lo hlo
    rw [List.pairwise_cons] at hs
    have := ih hs.2 (fun m hm => hb m (List.mem_cons_of_mem _ hm)) (n + 1) (fun m hm => hs.1 m hm)
    simp [Memory.wfFrom, this, hv, hlo n (List.mem_cons_self ..), hb n (List.mem_cons_self ..)]

theorem fullMemory_wf (keep : Nat → Bool) : Memory.wf (fullMemory keep) = true := by
  unfold fullMemory
  exact wfFrom_map _ _ (by decide) (List.pairwise_lt_range.filter _) (fun _ hn => List.mem_range.mp (List.mem_of_mem_filter hn)) 0
    (fun _ _ => Nat.zero_le _)

/-- The machine over such a memory, register 0 at `a`, with `q` in the queue. -/
def fullState (keep : Nat → Bool) (q : List Byte) (a : Word) : State :=
  { State.reset with mem := fullMemory keep, kbdQ := q, regs := { zeros with r0 := a } }

theorem fullState_cell (keep : Nat → Bool) (q : List Byte) (r a : Word) :
    (fullState keep q r).link.cell a = if keep a.toNat then 0x0101 else 0 := fullMemory_read keep a

theorem deliver_of_empty {s : State} (h : s.arrivals = []) : s.deliver = s := by
  obtain ⟨-, e⟩ | ⟨b, bs, hb, -⟩ := s.deliver_cases
  · exact e
  · rw [h] at hb; cases hb

/-- Every cell but the status cell holds 0x0101, that one `v`, and the queue is `q`. -/
structure Full (q : List Byte) (v : Word) (s : State) : Prop where
  params : s.params = defaultParams
  queue : s.kbdQ = q
  batches : s.arrivals = []
  wf : Memory.wf s.mem = true
  cells : ∀ a, a ≠ 0xFE00 → s.cell a = 0x0101
  status : s.cell 0xFE00 = v

theorem cell_outEmit (s : State) (b : Byte) (a : Word) : (s.outEmit b).cell a = s.cell a :=
  State.cell_congr (State.outEmit_mem s b) a

theorem Full.emit {q : List Byte} {v : Word} {s : State} (h : Full q v s) (b : Byte) : Full q v (s.outEmit b) :=
  ⟨by rw [State.outEmit_params, h.params], by rw [State.outEmit_kbdQ, h.queue], by rw [State.outEmit_arrivals, h.batches],
    by rw [State.outEmit_mem]; exact h.wf, fun a ha => by rw [cell_outEmit, h.cells a ha], by rw [cell_outEmit, h.status]⟩

theorem Full.read {q : List Byte} {v : Word} {s : State} (h : Full q v s) {a : Word} (ha : a ≠ 0xFE00) :
    s.memRead a = (0x0101, s) := by
  rw [State.memRead_of_ne (by rw [h.params]; exact ha), h.cells a ha]

/-- With no character pending a zero status cell reads as zero. -/
theorem Full.readStatusEmpty {s : State} (h : Full [] 0 s) : ∃ u, s.memRead 0xFE00 = (0x0000, u) := by
  have hk : s.params.kbsrAddr = 0xFE00 := by rw [h.params]; rfl
  have hr := s.memRead_kbsr
  have hc : s.kbsrProbe.cell 0xFE00 = 0 := by
    obtain ⟨-, e⟩ | ⟨c, q, e, -⟩ := s.kbsrProbe_cases
    · rw [e, hk, h.status, deliver_of_empty h.batches]
      exact State.cell_setCell_self _ _ h.wf
    · rw [deliver_of_empty h.batches, h.queue] at e; cases e
  rw [hk, hc] at hr
  exact ⟨_, hr⟩

/-- With the character 0x00 pending the status cell reads 0x8101 and the data cell then holds zero. -/
theorem Full.readStatusTakes {s : State} (h : Full [0x00] 0x0101 s) :
    ∃ u, s.memRead 0xFE00 = (0x8101, u) ∧ u.params = defaultParams ∧ u.cell 0xFE01 = 0x0101 ∧ u.cell 0xFE02 = 0x0000 := by
  have hk : s.params.kbsrAddr = 0xFE00 := by rw [h.params]; rfl
  have hk' : s.params.kbdrAddr = 0xFE02 := by rw [h.params]; rfl
  have hpr : s.kbsrProbe = (({ s with kbdQ := [] } : State).setCell 0xFE00 0x8101).setCell 0xFE02 0x0000 := by
    obtain ⟨e, -⟩ | ⟨c, q, e, hp⟩ := s.kbsrProbe_cases
    · rw [deliver_of_empty h.batches, h.queue] at e; cases e
    · rw [deliver_of_empty h.batches, h.queue] at e
      cases e
      rw [hp, deliver_of_empty h.batches, hk, hk', h.status]
      rfl
  have hc : s.kbsrProbe.cell 0xFE00 = 0x8101 := by
    rw [hpr, State.cell_setCell_ne _ _ (by decide)]
    exact State.cell_setCell_self _ _ h.wf
  have hr := s.memRead_kbsr
  rw [hk, hc] at hr
  refine ⟨_, hr, by rw [State.kbsrProbe_eq]; exact h.params, ?_, ?_⟩
  · rw [hpr, State.cell_setCell_ne _ _ (by decide), State.cell_setCell_ne _ _ (by decide)]
    exact h.cells _ (by decide)
  · rw [hpr]
    exact State.cell_setCell_self _ _ (Memory.wf_write _ _ h.wf)

/-- The loop of PUTS passes `k` cells that are not the status cell. -/
theorem puts_passes {q : List Byte} {v : Word} (n k : Nat) : ∀ (a : Word) (s : State), Full q v s →
    (∀ j, j < k → a + BitVec.ofNat 16 j ≠ 0xFE00) →
    (∀ s', Full q v s' → ∃ u, PutsLoopEnds n (a + BitVec.ofNat 16 k) s' u) → ∃ u, PutsLoopEnds (n + k) a s u := by
  induction k with
  | zero => intro a s hs _ h; simpa using h s hs
  | succ k ih =>
    intro a s hs hne h
    have ha : a ≠ 0xFE00 := by simpa using hne 0 (Nat.succ_pos k)
    obtain ⟨u, hu⟩ := ih (a + 1) _ (hs.emit (lowByte 0x0101))
      (fun j hj => by rw [addr_succ]; exact hne _ (Nat.succ_lt_succ hj)) (fun s' hs' => by rw [addr_succ]; exact h s' hs')
    exact ⟨u, .emit _ _ _ _ _ _ (hs.read ha) (by decide) hu⟩

/-- The loop of PUTSP passes `k` cells that are not the status cell. -/
theorem putsp_passes {q : List Byte} {v : Word} (n k : Nat) : ∀ (a : Word) (s : State), Full q v s →
    (∀ j, j < k → a + BitVec.ofNat 16 j ≠ 0xFE00) →
    (∀ s', Full q v s' → ∃ u, PutspLoopEnds n (a + BitVec.ofNat 16 k) s' u) → ∃ u, PutspLoopEnds (n + k) a s u := by
  induction k with
  | zero => intro a s hs _ h; simpa using h s hs
  | succ k ih =>
    intro a s hs hne h
    have ha : a ≠ 0xFE00 := by simpa using hne 0 (Nat.succ_pos k)
    obtain ⟨u, hu⟩ := ih (a + 1) _ ((hs.emit (lowByte 0x0101)).emit (highByte 0x0101))
      (fun j hj => by rw [addr_succ]; exact hne _ (Nat.succ_lt_succ hj)) (fun s' hs' => by rw [addr_succ]; exact h s' hs')
    exact ⟨u, .emit _ _ _ _ _ _ (hs.read ha) (by decide) (by decide) hu⟩

theorem addr_ne_status {a : Word} {j : Nat} (h : j < (0xFE00 - a).toNat) : a + BitVec.ofNat 16 j ≠ 0xFE00 := by
  intro e
  rw [← e] at h
  bv_omega

/-- Every cell but the status cell is full and nothing is typed; the string starts just after the status cell. -/
def lastCellEnds : State := fullState (· ≠ 0xFE00) [] 0xFE01

theorem lastCellEnds_full : Full [] 0 lastCellEnds.link := by
  have hc : ∀ a : Word, lastCellEnds.link.cell a = if a = 0xFE00 then 0 else 0x0101 := by
    intro a
    have he : a.toNat = 0xFE00 ↔ a = 0xFE00 := ⟨fun h => BitVec.eq_of_toNat_eq h, fun h => by rw [h]; rfl⟩
    rw [lastCellEnds, fullState_cell]
    by_cases h : a = 0xFE00 <;> simp [he, h]
  exact ⟨rfl, rfl, rfl, fullMemory_wf _, fun a ha => by rw [hc, if_neg ha], by rw [hc, if_pos rfl]⟩

/-- The string ends at the last of the 65536 cells: the greatest `n` of the first clause. -/
theorem witness_PutsFollowsItsLoop_last_cell :
    (65535 : Nat) < 65536 ∧ ∃ u, PutsLoopEnds 65535 (lastCellEnds.reg .r0) lastCellEnds.link u := by
  refine ⟨by decide, ?_⟩
  have := puts_passes 0 65535 0xFE01 _ lastCellEnds_full (fun j hj => addr_ne_status hj) (fun s hs => by
    obtain ⟨u, hu⟩ := hs.readStatusEmpty
    exact ⟨u, .stop _ _ _ hu⟩)
  exact this

theorem witness_PutspFollowsItsLoop_last_cell :
    (65535 : Nat) < 65536 ∧ ∃ u, PutspLoopEnds 65535 (lastCellEnds.reg .r0) lastCellEnds.link u := by
  refine ⟨by decide, ?_⟩
  have := putsp_passes 0 65535 0xFE01 _ lastCellEnds_full (fun j hj => addr_ne_status hj) (fun s hs => by
    obtain ⟨u, hu⟩ := hs.readStatusEmpty
    exact ⟨u, .stopLow _ _ _ _ hu (by decide)⟩)
  exact this

/-- Every cell is full and the character 0x00 is typed; the string starts at the data cell, which the status read empties. -/
def secondPassEnds : State := fullState (fun _ => true) [0x00] 0xFE02

theorem secondPassEnds_full : Full [0x00] 0x0101 secondPassEnds.link :=
  ⟨rfl, rfl, rfl, fullMemory_wf _, fun a _ => by rw [secondPassEnds, fullState_cell]; rfl,
    by rw [secondPassEnds, fullState_cell]; rfl⟩

/-- The string ends at the first cell of its second pass. -/
theorem witness_PutsEndsAfterItsPasses :
    secondPassEnds.run = .running ∧ ∃ u, PutsLoopEnds 65536 (secondPassEnds.reg .r0) secondPassEnds.link u := by
  refine ⟨rfl, ?_⟩
  have := puts_passes 2 65534 0xFE02 _ secondPassEnds_full (fun j hj => addr_ne_status hj) (fun s hs => by
    obtain ⟨p, hr, hp, h1, h2⟩ := hs.readStatusTakes
    have hne : ∀ (b c : Byte) (a : Word), a ≠ 0xFE00 → ((p.outEmit b).outEmit c).memRead a = (p.cell a, (p.outEmit b).outEmit c) ∧
        (p.outEmit b).memRead a = (p.cell a, p.outEmit b) := fun b c a ha =>
      ⟨by rw [State.memRead_of_ne (by simp only [State.outEmit_params, hp]; exact ha), cell_outEmit, cell_outEmit],
       by rw [State.memRead_of_ne (by simp only [State.outEmit_params, hp]; exact ha), cell_outEmit]⟩
    have r1 := (hne (lowByte 0x8101) 0 0xFE01 (by decide)).2
    have r2 := (hne (lowByte 0x8101) (lowByte 0x0101) 0xFE02 (by decide)).1
    rw [h1] at r1
    rw [h2] at r2
    exact ⟨_, .emit 1 0xFE00 0x8101 s p _ hr (by decide)
      (.emit 0 0xFE01 0x0101 _ _ _ r1 (by decide) (.stop 0xFE02 _ _ r2))⟩)
  exact this

theorem putsp_second_pass : ∃ u, PutspLoopEnds 65536 (secondPassEnds.reg .r0) secondPassEnds.link u := by
  have := putsp_passes 2 65534 0xFE02 _ secondPassEnds_full (fun j hj => addr_ne_status hj) (fun s hs => by
    obtain ⟨p, hr, hp, h1, h2⟩ := hs.readStatusTakes
    have hne : ∀ (v : State) (a : Word), v.params = p.params → v.mem = p.mem → a ≠ 0xFE00 → v.memRead a = (p.cell a, v) :=
      fun v a hv hm ha => by rw [State.memRead_of_ne (by rw [hv, hp]; exact ha), State.cell_congr hm]
    have r1 := hne ((p.outEmit (lowByte 0x8101)).outEmit (highByte 0x8101)) 0xFE01 (by simp) (by simp) (by decide)
    have r2 := hne ((((p.outEmit (lowByte 0x8101)).outEmit (highByte 0x8101)).outEmit (lowByte 0x0101)).outEmit (highByte 0x0101))
      0xFE02 (by simp) (by simp) (by decide)
    rw [h1] at r1
    rw [h2] at r2
    exact ⟨_, .emit 1 0xFE00 0x8101 s p _ hr (by decide) (by decide)
      (.emit 0 0xFE01 0x0101 _ _ _ r1 (by decide) (by decide) (.stopLow 0xFE02 _ _ _ r2 (by decide)))⟩)
  exact this

/-- The loop of PUTS ends in one way only. -/
theorem PutsLoopEnds_unique {n : Nat} {a : Word} {s u : State} (h : PutsLoopEnds n a s u) :
    ∀ m v, PutsLoopEnds m a s v → m = n := by
  induction h with
  | stop a s t hr =>
    intro m v hv
    cases hv with
    | stop => rfl
    | emit _ _ w _ _ _ hr' hw => rw [hr] at hr'; exact absurd (congrArg Prod.fst hr').symm hw
  | emit n a w s u t hr hw _ ih =>
    intro m v hv
    cases hv with
    | stop _ _ _ hr' => rw [hr] at hr'; exact absurd (congrArg Prod.fst hr') hw
    | emit m' _ w' _ u' _ hr' _ hv' =>
      rw [hr] at hr'
      cases hr'
      rw [ih _ _ hv']

/-- The loop of PUTSP ends in one way only. -/
theorem PutspLoopEnds_unique {n : Nat} {a : Word} {s u : State} (h : PutspLoopEnds n a s u) :
    ∀ m v, PutspLoopEnds m a s v → m = n := by
  induction h with
  | stopLow a w s t hr hl =>
    intro m v hv
    cases hv with
    | stopLow => rfl
    | stopHigh => rfl
    | emit _ _ w' _ _ _ hr' hl' => rw [hr] at hr'; cases hr'; exact absurd hl hl'
  | stopHigh a w s u hr hl hh =>
    intro m v hv
    cases hv with
    | stopLow => rfl
    | stopHigh => rfl
    | emit _ _ w' _ _ _ hr' _ hh' => rw [hr] at hr'; cases hr'; exact absurd hh hh'
  | emit n a w s u t hr hl hh _ ih =>
    intro m v hv
    cases hv with
    | stopLow _ w' _ _ hr' hl' => rw [hr] at hr'; cases hr'; exact absurd hl' hl
    | stopHigh _ w' _ _ hr' _ hh' => rw [hr] at hr'; cases hr'; exact absurd hh' hh
    | emit m' _ w' _ u' _ hr' _ _ hv' =>
      rw [hr] at hr'
      cases hr'
      rw [ih _ _ hv']

/-- So within one pass over memory that string does not end: the second clause, at its least `n`. -/
theorem witness_PutsFollowsItsLoop_second_pass :
    ∀ n u, n < 65536 → ¬ PutsLoopEnds n (secondPassEnds.reg .r0) secondPassEnds.link u := by
  intro n u hn h
  obtain ⟨-, v, hv⟩ := witness_PutsEndsAfterItsPasses
  have := PutsLoopEnds_unique h _ _ hv
  omega

theorem witness_PutspFollowsItsLoop_second_pass :
    ∀ n u, n < 65536 → ¬ PutspLoopEnds n (secondPassEnds.reg .r0) secondPassEnds.link u := by
  intro n u hn h
  obtain ⟨v, hv⟩ := putsp_second_pass
  have := PutspLoopEnds_unique h _ _ hv
  omega

end Sys2Proof.Tests
end

section
/-! PROOFS. The output stream is written and never read (spec/10_state.md R23): every operation commutes with putting bytes before all that
has been emitted. -/

namespace Sys2Proof.Machine

/-- `s` with the bytes `p` before all that is in `out`. -/
def State.prependOut (s : State) (p : List Byte) : State := { s with out := p ++ s.out }

section PrependOut
variable (s : State) (p : List Byte)

@[simp] theorem State.prependOut_pc : (s.prependOut p).pc = s.pc := rfl
@[simp] theorem State.prependOut_cond : (s.prependOut p).cond = s.cond := rfl
@[simp] theorem State.prependOut_run : (s.prependOut p).run = s.run := rfl
@[simp] theorem State.prependOut_pending : (s.prependOut p).pending = s.pending := rfl
@[simp] theorem State.prependOut_kbdQ : (s.prependOut p).kbdQ = s.kbdQ := rfl
@[simp] theorem State.prependOut_params : (s.prependOut p).params = s.params := rfl
@[simp] theorem State.reg_prependOut (r : Reg) : (s.prependOut p).reg r = s.reg r := rfl
@[simp] theorem State.cell_prependOut (a : Word) : (s.prependOut p).cell a = s.cell a := rfl

/-! ### The state updates -/

@[simp] theorem State.setPc_prependOut (t : Word) : (s.prependOut p).setPc t = (s.setPc t).prependOut p := rfl
@[simp] theorem State.link_prependOut : (s.prependOut p).link = s.link.prependOut p := rfl
@[simp] theorem State.writeRegCC_prependOut (r : Reg) (v : Word) :
    (s.prependOut p).writeRegCC r v = (s.writeRegCC r v).prependOut p := rfl
@[simp] theorem State.memWrite_prependOut (a v : Word) : (s.prependOut p).memWrite a v = (s.memWrite a v).prependOut p := rfl
@[simp] theorem State.raise_prependOut (c : FaultCause) : (s.prependOut p).raise c = (s.raise c).prependOut p := rfl
@[simp] theorem State.suspend_prependOut (q : Routine) : (s.prependOut p).suspend q = (s.suspend q).prependOut p := rfl
@[simp] theorem State.finish_prependOut : (s.prependOut p).finish = s.finish.prependOut p := rfl
@[simp] theorem State.outFlush_prependOut : (s.prependOut p).outFlush = s.outFlush.prependOut p := rfl

@[simp] theorem State.outEmit_prependOut (b : Byte) : (s.prependOut p).outEmit b = (s.outEmit b).prependOut p := by
  simp [State.outEmit, State.prependOut]

/-! ### The keyboard and memory reads -/

@[simp] theorem State.deliver_prependOut : (s.prependOut p).deliver = s.deliver.prependOut p := by
  cases h : s.arrivals <;> simp [State.deliver, State.prependOut, h]

/-- The taken character is the same, and so is the state but for `out`. -/
@[simp] theorem State.kbdTake_prependOut : (s.prependOut p).kbdTake = (s.kbdTake.1, s.kbdTake.2.prependOut p) := by
  cases h : s.deliver.kbdQ with
  | nil => simp [State.kbdTake, h]
  | cons c q => simp [State.kbdTake, h]; rfl

@[simp] theorem State.kbsrProbe_prependOut : (s.prependOut p).kbsrProbe = s.kbsrProbe.prependOut p := by
  unfold State.kbsrProbe State.kbdPoll
  rw [State.kbdTake_prependOut]
  rcases s.kbdTake with ⟨_ | c, u⟩ <;> rfl

@[simp] theorem State.memRead_prependOut (a : Word) :
    (s.prependOut p).memRead a = ((s.memRead a).1, (s.memRead a).2.prependOut p) := by
  by_cases h : a = s.params.kbsrAddr <;> simp [State.memRead, State.probeFor, h]

@[simp] theorem State.fetch_prependOut : (s.prependOut p).fetch = (s.fetch.1, s.fetch.2.prependOut p) := by
  simp [State.fetch]

@[simp] theorem State.loadInto_prependOut (r : Reg) (a : Word) :
    (s.prependOut p).loadInto r a = (s.loadInto r a).prependOut p := by
  simp [State.loadInto]

/-! ### The service routines -/

@[simp] theorem State.getcRead_prependOut : (s.prependOut p).getcRead = s.getcRead.prependOut p := by
  unfold State.getcRead State.kbdGetc
  rw [State.kbdTake_prependOut]
  rcases s.kbdTake with ⟨_ | c, u⟩ <;> simp

@[simp] theorem State.inpRead_prependOut : (s.prependOut p).inpRead = s.inpRead.prependOut p := by
  unfold State.inpRead State.kbdGetc
  rw [State.kbdTake_prependOut]
  rcases s.kbdTake with ⟨_ | c, u⟩ <;> simp

@[simp] theorem State.inpPrompt_prependOut : (s.prependOut p).inpPrompt = s.inpPrompt.prependOut p := by
  simp [State.inpPrompt_eq, State.prependOut]

@[simp] theorem State.haltRoutine_prependOut : (s.prependOut p).haltRoutine = s.haltRoutine.prependOut p := by
  simp [State.haltRoutine_eq, State.prependOut]

@[simp] theorem State.unknownVector_prependOut : (s.prependOut p).unknownVector = s.unknownVector.prependOut p := by
  cases h : s.params.unknownTrapPolicy <;> simp [State.unknownVector, h]

@[simp] theorem State.putsLoop_prependOut (n : Nat) : ∀ (a : Word) (s : State),
    State.putsLoop n a (s.prependOut p) = (State.putsLoop n a s).prependOut p := by
  induction n with
  | zero => intro a s; rfl
  | succ n ih =>
    intro a s
    simp only [State.putsLoop, State.memRead_prependOut]
    split
    · rfl
    · rw [State.outEmit_prependOut, ih]

@[simp] theorem State.putspLoop_prependOut (n : Nat) : ∀ (a : Word) (s : State),
    State.putspLoop n a (s.prependOut p) = (State.putspLoop n a s).prependOut p := by
  induction n with
  | zero => intro a s; rfl
  | succ n ih =>
    intro a s
    simp only [State.putspLoop, State.memRead_prependOut, State.outEmit_prependOut]
    split
    · rfl
    · split
      · rfl
      · rw [ih]

/-- The dispatch by vector commutes, since each of the routines it selects does. -/
@[simp] theorem State.trapDispatch_prependOut (vec : BitVec 8) :
    (s.prependOut p).trapDispatch vec = (s.trapDispatch vec).prependOut p := by
  unfold State.trapDispatch
  split <;>
    simp [State.getcRoutine, State.outRoutine, State.putsRoutine, State.inpRoutine, State.putspRoutine]

@[simp] theorem State.resume_prependOut (r : Routine) : (s.prependOut p).resume r = (s.resume r).prependOut p := by
  cases r <;> simp [State.resume]


/-! ### The step -/

/-- An instruction answers a next state, and the same one after other output. -/
theorem exec_prependOut (i : Instr) :
    ∃ t, exec i s = .next t ∧ ∀ p, exec i (s.prependOut p) = .next (t.prependOut p) := by
  cases i with
  | br mask off =>
    refine ⟨_, rfl, fun p => ?_⟩
    simp only [exec, execBr, State.prependOut_cond, apply_ite (State.prependOut · p)]
    rfl
  | addReg | addImm | andReg | andImm | not | lea | jmp | jsr | jsrr | st | str | reserved8 | reserved13 =>
    exact ⟨_, rfl, fun _ => rfl⟩
  | ld | ldr | ldi | sti =>
    exact ⟨_, rfl, fun p => by simp [exec, execLd, execLdr, execLdi, execSti, State.pcRel9, State.baseOff]⟩
  | trap vec => exact ⟨_, rfl, fun p => by simp [exec, execTrap]⟩
  | getc | out | puts | inp | putsp | halt =>
    exact ⟨_, rfl, fun p => by
      simp [exec, execGetc, execOut, execPuts, execInp, execPutsp, execHalt, State.getcRoutine, State.outRoutine,
        State.putsRoutine, State.inpRoutine, State.putspRoutine]⟩

/-- A step answers a next state, and the same one after other output. -/
theorem step_prependOut : ∃ t, step s = .next t ∧ ∀ p, step (s.prependOut p) = .next (t.prependOut p) := by
  cases hr : s.run with
  | halted => exact ⟨s, by simp [step, hr], fun p => by simp [step, hr]⟩
  | running =>
    cases hp : s.pending with
    | some r => exact ⟨s.resume r, by simp [step, hr, hp], fun p => by simp [step, hr, hp]⟩
    | none => simpa [step, hr, hp] using exec_prependOut s.fetch.2 (decode s.fetch.1)

end PrependOut

/-- Settles O51: a state is the one with nothing emitted, its output put before. -/
theorem outputIsNeverRead : Obligations.OutputIsNeverRead := by
  intro s t o h
  obtain ⟨t₀, -, hp⟩ := step_prependOut { s with out := [] }
  have put : ∀ q, ({ s with out := [] } : State).prependOut q = { s with out := q } := fun q => by simp [State.prependOut]
  simp only [put] at hp
  obtain rfl : t₀.prependOut s.out = t := Host.Outcome.next.inj ((hp s.out).symm.trans h)
  exact ⟨t₀.out, rfl, hp o⟩

/-- Settles O50: what a step appends stands after what was there. -/
theorem outputOnlyGrows : Obligations.OutputOnlyGrows := by
  intro s t h
  obtain ⟨bytes, hout, -⟩ := outputIsNeverRead s t [] h
  exact ⟨bytes, hout.symm⟩

end Sys2Proof.Machine
end

section
/-! PROOFS. What every operation keeps, said once for each and carried over the loops of the string routines. -/

namespace Sys2Proof.Machine

/-! ### The input device: the fields `deliver` leaves, and what a taken character does to the input -/

section Deliver
variable (s : State)

@[simp] theorem State.deliver_pc : s.deliver.pc = s.pc := by rw [s.deliver_eq]
@[simp] theorem State.deliver_cond : s.deliver.cond = s.cond := by rw [s.deliver_eq]
@[simp] theorem State.deliver_run : s.deliver.run = s.run := by rw [s.deliver_eq]
@[simp] theorem State.deliver_fault : s.deliver.fault = s.fault := by rw [s.deliver_eq]
@[simp] theorem State.deliver_mem : s.deliver.mem = s.mem := by rw [s.deliver_eq]
@[simp] theorem State.deliver_out : s.deliver.out = s.out := by rw [s.deliver_eq]
@[simp] theorem State.deliver_unflushed : s.deliver.unflushed = s.unflushed := by rw [s.deliver_eq]
@[simp] theorem State.deliver_params : s.deliver.params = s.params := by rw [s.deliver_eq]
@[simp] theorem State.deliver_reg (r : Reg) : s.deliver.reg r = s.reg r := by rw [s.deliver_eq]; rfl

end Deliver

/-- Taking the head of the queue takes the head of the input. -/
theorem State.input_of_deliver_cons {s : State} {c : Byte} {q : List Byte} (h : s.deliver.kbdQ = c :: q) :
    s.input = c :: ({ s.deliver with kbdQ := q } : State).input := by
  rw [← s.deliver_input]; simp [State.input, h]

/-- A poll or a read removes from the head of the input what it answers (R22). -/
theorem State.kbdTake_input (s : State) : s.input = s.kbdTake.1.toList ++ s.kbdTake.2.input := by
  obtain ⟨-, h⟩ | ⟨c, q, hq, h⟩ := s.kbdTake_cases
  · rw [h]; exact s.deliver_input.symm
  · rw [h]; exact State.input_of_deliver_cons hq

/-! ### What every operation keeps -/

theorem oneFlag_setcc (v : Word) : oneFlag (setcc v) = true := by
  unfold setcc
  split
  · decide
  · split <;> decide

/-- What holds from `s` to `t` over every operation of the machine, and so over every step. -/
structure Kept (s t : State) : Prop where
  params : t.params = s.params
  wf : Memory.wf s.mem = true → Memory.wf t.mem = true
  oneFlag : oneFlag s.cond = true → oneFlag t.cond = true
  /-- input is taken from its head only -/
  input : t.input <:+ s.input
  /-- an open emission batch stays within `out` -/
  batch : s.unflushed ≤ s.out.length → t.unflushed ≤ t.out.length

theorem Kept.trans {s u t : State} (h1 : Kept s u) (h2 : Kept u t) : Kept s t where
  params := h2.params.trans h1.params
  wf h := h2.wf (h1.wf h)
  oneFlag h := h2.oneFlag (h1.oneFlag h)
  input := h2.input.trans h1.input
  batch h := h2.batch (h1.batch h)

/-- A write of none but registers, `pc`, `run`, `fault` and `pending`. -/
theorem Kept.control (s : State) (x : Regs) (a : Word) (r : RunState) (f : FaultCause) (p : Option Routine) :
    Kept s { s with regs := x, pc := a, run := r, fault := f, pending := p } :=
  ⟨rfl, id, id, List.suffix_rfl, id⟩

theorem Kept.refl (s : State) : Kept s s := .control s _ _ _ _ _

theorem Kept.writeRegCC (s : State) (r : Reg) (v : Word) : Kept s (s.writeRegCC r v) :=
  ⟨rfl, id, fun _ => oneFlag_setcc v, List.suffix_rfl, id⟩

theorem Kept.setCell (s : State) (a v : Word) : Kept s (s.setCell a v) :=
  ⟨rfl, Memory.wf_write a v, id, List.suffix_rfl, id⟩

theorem Kept.emit (s : State) (b : Byte) : Kept s (s.outEmit b) :=
  ⟨rfl, id, id, List.suffix_rfl, by simp⟩

theorem Kept.emitAll (s : State) (bs : List Byte) : Kept s (s.outEmitAll bs) := by
  rw [s.outEmitAll_eq]
  exact ⟨rfl, id, id, List.suffix_rfl, by simp⟩

theorem Kept.flush (s : State) : Kept s s.outFlush := ⟨rfl, id, id, List.suffix_rfl, fun _ => Nat.zero_le _⟩

theorem Kept.deliver (s : State) : Kept s s.deliver :=
  ⟨by simp, by simp, by simp, by rw [s.deliver_input], by simp⟩

theorem Kept.take {s : State} {c : Byte} {q : List Byte} (h : s.deliver.kbdQ = c :: q) :
    Kept s { s.deliver with kbdQ := q } where
  params := s.deliver_params
  wf := by simp
  oneFlag := by simp
  input := by rw [State.input_of_deliver_cons h]; exact List.suffix_cons _ _
  batch := by simp

theorem Kept.probe (s : State) : Kept s s.kbsrProbe := by
  obtain ⟨-, h⟩ | ⟨c, q, hq, h⟩ := s.kbsrProbe_cases
  · rw [h]; exact (Kept.deliver s).trans (.setCell _ _ _)
  · rw [h]; exact ((Kept.take hq).trans (.setCell _ _ _)).trans (.setCell _ _ _)

theorem Kept.read (s : State) (a : Word) : Kept s (s.memRead a).2 := by
  obtain ⟨-, h⟩ | ⟨-, h⟩ := s.memRead_cases a
  · rw [h]; exact .refl s
  · rw [h]; exact .probe s

theorem Kept.fetch (s : State) : Kept s s.fetch.2 := (Kept.read s s.pc).trans (.control _ _ _ _ _ _)

theorem State.putsLoop_kept (n : Nat) : ∀ (a : Word) (s : State), Kept s (State.putsLoop n a s) := by
  induction n with
  | zero => intro a s; exact .control s _ _ _ _ _
  | succ n ih =>
    intro a s
    unfold State.putsLoop
    split
    · exact ((Kept.read s a).trans (.flush _)).trans (.control _ _ _ _ _ _)
    · exact ((Kept.read s a).trans (.emit _ _)).trans (ih _ _)

theorem State.putspLoop_kept (n : Nat) : ∀ (a : Word) (s : State), Kept s (State.putspLoop n a s) := by
  induction n with
  | zero => intro a s; exact .control s _ _ _ _ _
  | succ n ih =>
    intro a s
    unfold State.putspLoop
    split
    · exact ((Kept.read s a).trans (.flush _)).trans (.control _ _ _ _ _ _)
    · split
      · exact (((Kept.read s a).trans (.emit _ _)).trans (.flush _)).trans (.control _ _ _ _ _ _)
      · exact (((Kept.read s a).trans (.emit _ _)).trans (.emit _ _)).trans (ih _ _)

end Sys2Proof.Machine
end

section
/-! PROOFS. What a service routine does to the control state, for all of them at once (spec/44_trap.md R110 to R120). -/

namespace Sys2Proof.Machine

/-- What a routine that neither halts nor faults does from `s` to `t`; `asks` says whether it makes a `KbdGetc`. -/
structure RoutineFrame (asks : Bool) (s t : State) : Prop extends Kept s t where
  pc : t.pc = s.pc
  run : t.run = s.run
  fault : t.fault = s.fault
  /-- register 0 receives the character, and no other register changes -/
  regs : ∀ r : Reg, (r == .r0 && asks) = false → t.reg r = s.reg r
  cond : asks = false → t.cond = s.cond
  /-- the flags are set from the character, or the routine waits for it -/
  flags : asks = true → Machine.oneFlag t.cond = true ∨ (t.cond = s.cond ∧ (t.pending = some .getc ∨ t.pending = some .inp))
  /-- only a string routine in progress leaves its emission batch open -/
  flushed : s.unflushed = 0 → midBatch t.pending = false → t.unflushed = 0

/-- A routine that takes a character writes register 0 only. -/
theorem State.reg_writeRegCC_asks (s : State) (v : Word) {r : Reg} (h : (r == .r0 && true) = false) :
    (s.writeRegCC .r0 v).reg r = s.reg r :=
  State.reg_writeRegCC_ne s v (by simpa using h)

/-- Going on to wait for a character. -/
theorem RoutineFrame.waits (s : State) {p : Routine} (hp : p = .getc ∨ p = .inp) :
    RoutineFrame true s (s.deliver.suspend p) where
  toKept := (Kept.deliver s).trans (.control _ _ _ _ _ _)
  pc := s.deliver_pc
  run := s.deliver_run
  fault := s.deliver_fault
  regs r _ := s.deliver_reg r
  cond := nofun
  flags _ := .inr ⟨s.deliver_cond, hp.imp (congrArg some) (congrArg some)⟩
  flushed h0 _ := s.deliver_unflushed.trans h0

theorem State.getcRead_frame (s : State) : RoutineFrame true s s.getcRead := by
  obtain ⟨-, h⟩ | ⟨c, q, hq, h⟩ := s.getcRead_cases
  · rw [h]; exact .waits s (.inl rfl)
  · rw [h]
    exact {
      toKept := ((Kept.take hq).trans (.writeRegCC _ _ _)).trans (.control _ _ _ _ _ _)
      pc := s.deliver_pc, run := s.deliver_run, fault := s.deliver_fault
      regs := fun r hr => (State.reg_writeRegCC_asks _ _ hr).trans (s.deliver_reg r)
      cond := nofun
      flags := fun _ => .inl (oneFlag_setcc _)
      flushed := fun h0 _ => s.deliver_unflushed.trans h0 }

theorem State.inpRead_frame (s : State) : RoutineFrame true s s.inpRead := by
  obtain ⟨-, h⟩ | ⟨c, q, hq, h⟩ := s.inpRead_cases
  · rw [h]; exact .waits s (.inr rfl)
  · rw [h]
    exact {
      toKept := (((((Kept.take hq).trans (.emit _ _)).trans (.writeRegCC _ _ _)).trans (.emit _ _)).trans (.flush _)).trans
        (.control _ _ _ _ _ _)
      pc := s.deliver_pc, run := s.deliver_run, fault := s.deliver_fault
      regs := fun r hr => (State.reg_writeRegCC_asks _ _ hr).trans (s.deliver_reg r)
      cond := nofun
      flags := fun _ => .inl (oneFlag_setcc _)
      flushed := fun _ _ => rfl }

theorem State.inpPrompt_kept (s : State) : Kept s s.inpPrompt := (Kept.emitAll s _).trans (.flush _)

/-- IN from its start: the prompt changes the output only. -/
theorem State.inpRoutine_frame (s : State) : RoutineFrame true s s.inpRoutine := by
  have hp := s.inpPrompt_eq
  have h := s.inpPrompt.inpRead_frame
  exact {
    toKept := s.inpPrompt_kept.trans h.toKept
    pc := h.pc.trans (by rw [hp]), run := h.run.trans (by rw [hp]), fault := h.fault.trans (by rw [hp])
    regs := fun r hr => (h.regs r hr).trans (State.reg_congr (by rw [hp]) r)
    cond := nofun
    flags := fun _ => (h.flags rfl).imp_right fun ⟨hc, hw⟩ => ⟨hc.trans (by rw [hp]), hw⟩
    flushed := fun _ => h.flushed (by rw [hp]) }

/-- A string routine that ends flushed, or stands in its batch. -/
theorem StringFrame.routine {s t : State} (h : StringFrame s t) (hk : Kept s t)
    (hf : midBatch t.pending = false → t.unflushed = 0) : RoutineFrame false s t where
  toKept := hk
  pc := by rw [h.rest]
  run := by rw [h.rest]
  fault := by rw [h.rest]
  regs r _ := State.reg_congr (by rw [h.rest]) r
  cond _ := by rw [h.rest]
  flags := nofun
  flushed _ := hf

theorem State.putsLoop_flushed (n : Nat) (a : Word) (s : State) (h : midBatch (State.putsLoop n a s).pending = false) :
    (State.putsLoop n a s).unflushed = 0 := by
  obtain ⟨-, h0⟩ | hp := State.putsLoop_ends n a s
  · exact h0
  · rw [hp] at h; cases h

theorem State.putspLoop_flushed (n : Nat) (a : Word) (s : State) (h : midBatch (State.putspLoop n a s).pending = false) :
    (State.putspLoop n a s).unflushed = 0 := by
  obtain ⟨-, h0⟩ | hp := State.putspLoop_ends n a s
  · exact h0
  · rw [hp] at h; cases h

theorem State.putsLoop_routine (n : Nat) (a : Word) (s : State) : RoutineFrame false s (State.putsLoop n a s) :=
  (State.putsLoop_frame n a s).routine (State.putsLoop_kept n a s) (State.putsLoop_flushed n a s)

theorem State.putspLoop_routine (n : Nat) (a : Word) (s : State) : RoutineFrame false s (State.putspLoop n a s) :=
  (State.putspLoop_frame n a s).routine (State.putspLoop_kept n a s) (State.putspLoop_flushed n a s)

theorem State.outRoutine_frame (s : State) : RoutineFrame false s s.outRoutine where
  toKept := (Kept.emit s _).trans (.flush _)
  pc := rfl
  run := rfl
  fault := rfl
  regs _ _ := rfl
  cond _ := rfl
  flags := nofun
  flushed _ _ := rfl

theorem RoutineFrame.refl (s : State) : RoutineFrame false s s :=
  ⟨.refl s, rfl, rfl, rfl, fun _ _ => rfl, fun _ => rfl, nofun, fun h _ => h⟩

theorem State.haltRoutine_kept (s : State) : Kept s s.haltRoutine :=
  ((Kept.emitAll s _).trans (.flush _)).trans (.control _ _ _ _ _ _)

/-- A routine in progress that makes a `KbdGetc`. -/
def Routine.asks : Routine → Bool
  | .getc => true
  | .inp => true
  | .puts _ => false
  | .putsp _ => false

theorem State.resume_frame (s : State) (p : Routine) : RoutineFrame p.asks s (s.resume p) := by
  cases p with
  | getc => exact s.getcRead_frame
  | inp => exact s.inpRead_frame
  | puts a => exact State.putsLoop_routine _ a s
  | putsp a => exact State.putspLoop_routine _ a s

/-- A resumed routine ends flushed or stands in its batch, also where it stood in one before. -/
theorem State.resume_flushed {s : State} {p : Routine} (h : midBatch (some p) = false → s.unflushed = 0)
    (ht : midBatch (s.resume p).pending = false) : (s.resume p).unflushed = 0 := by
  cases p with
  | getc => exact s.getcRead_frame.flushed (h rfl) ht
  | inp => exact s.inpRead_frame.flushed (h rfl) ht
  | puts a => exact State.putsLoop_flushed _ a s ht
  | putsp a => exact State.putspLoop_flushed _ a s ht

theorem readsKeyboard_trap_of_undefined {vec : BitVec 8} (h : definedVector vec = false) :
    readsKeyboard (.trap vec) = false := by
  have h0 : vec ≠ 0x20 := by rintro rfl; cases h
  have h3 : vec ≠ 0x23 := by rintro rfl; cases h
  simpa [readsKeyboard] using And.intro h0 h3

/-- All that the dispatch of TRAP can do to the control state: a routine that goes on, HALT, or the unknown-vector fault. -/
theorem State.trapDispatch_effect (s : State) (vec : BitVec 8) :
    RoutineFrame (readsKeyboard (.trap vec)) s (s.trapDispatch vec) ∨
    (vec = 0x25 ∧ s.trapDispatch vec = s.haltRoutine) ∨
    (definedVector vec = false ∧ s.params.unknownTrapPolicy = .fault ∧ s.trapDispatch vec = s.raise .unknownTrap) := by
  obtain ⟨rfl, h⟩ | ⟨rfl, h⟩ | ⟨rfl, h⟩ | ⟨rfl, h⟩ | ⟨rfl, h⟩ | ⟨rfl, h⟩ | ⟨hd, h⟩ := s.trapDispatch_cases vec <;> rw [h]
  · exact .inl s.getcRead_frame
  · exact .inl s.outRoutine_frame
  · exact .inl (State.putsLoop_routine _ _ s)
  · exact .inl s.inpRoutine_frame
  · exact .inl (State.putspLoop_routine _ _ s)
  · exact .inr (.inl ⟨rfl, rfl⟩)
  · cases hp : s.params.unknownTrapPolicy with
    | fault => exact .inr (.inr ⟨hd, rfl, by simp [State.unknownVector, hp]⟩)
    | noop =>
      left
      rw [readsKeyboard_trap_of_undefined hd]
      simpa [State.unknownVector, hp] using RoutineFrame.refl s

end Sys2Proof.Machine
end

section
/-! PROOFS. All that an instruction and a step can do, said once; the rules over all instructions follow from it. -/

namespace Sys2Proof.Machine

/-! ### Reads -/

/-- `u` is `s` after memory reads. -/
structure ReadFrame (s u : State) : Prop extends Kept s u where
  rest : u = { s with mem := u.mem, kbdQ := u.kbdQ, arrivals := u.arrivals }

theorem ReadFrame.refl (s : State) : ReadFrame s s := ⟨.refl s, rfl⟩

theorem ReadFrame.read (s : State) (a : Word) : ReadFrame s (s.memRead a).2 := ⟨.read s a, s.memRead_eq a⟩

theorem ReadFrame.trans {s u t : State} (h1 : ReadFrame s u) (h2 : ReadFrame u t) : ReadFrame s t :=
  ⟨h1.toKept.trans h2.toKept, by rw [h2.rest, h1.rest]⟩

theorem ReadFrame.reg {s u : State} (h : ReadFrame s u) (r : Reg) : u.reg r = s.reg r :=
  State.reg_congr (by rw [h.rest]) r

/-! ### The instructions that enter the trap dispatch (R110) -/

/-- `i` is TRAP with the vector `vec`, under its own name where it has one. -/
inductive IsTrap : Instr → BitVec 8 → Prop where
  | trap (vec : BitVec 8) : IsTrap (.trap vec) vec
  | getc : IsTrap .getc 0x20
  | out : IsTrap .out 0x21
  | puts : IsTrap .puts 0x22
  | inp : IsTrap .inp 0x23
  | putsp : IsTrap .putsp 0x24
  | halt : IsTrap .halt 0x25

theorem IsTrap.mayWriteReg {i : Instr} {vec : BitVec 8} (h : IsTrap i vec) (r : Reg) :
    mayWriteReg i r = (r == .r7 || (r == .r0 && readsKeyboard (.trap vec))) := by
  cases h with
  | trap => rfl
  | _ => cases r <;> rfl

theorem IsTrap.mayWriteCond {i : Instr} {vec : BitVec 8} (h : IsTrap i vec) :
    mayWriteCond i = readsKeyboard (.trap vec) := by
  cases h <;> rfl

theorem IsTrap.readsKeyboard {i : Instr} {vec : BitVec 8} (h : IsTrap i vec) :
    readsKeyboard i = readsKeyboard (.trap vec) := by
  cases h <;> rfl

theorem IsTrap.readsStatus {i : Instr} {vec : BitVec 8} (h : IsTrap i vec) {s : State} (hr : ReadsStatus s (.trap vec)) :
    ReadsStatus s i := by
  cases h with
  | trap => exact hr
  | puts | putsp => simpa [ReadsStatus] using hr
  | getc | out | inp | halt => simp [ReadsStatus] at hr

theorem IsTrap.eq_trap {i : Instr} {vec : BitVec 8} (h : IsTrap i vec) (hd : definedVector vec = false) : i = .trap vec := by
  cases h with
  | trap => rfl
  | _ => exact absurd hd (by decide)

theorem IsTrap.halt_cases {i : Instr} (h : IsTrap i 0x25) : i = .halt ∨ i = .trap 0x25 := by
  cases h with
  | trap => exact .inr rfl
  | halt => exact .inl rfl

/-! ### One instruction -/

/-- All that an instruction can do from `s`, by its kind. -/
inductive Effect (i : Instr) (s : State) : State → Prop where
  /-- BR and JMP; a branch not taken goes to the advanced `pc` -/
  | jumps (target : Word) : mayWritePc i = true → mayWriteCond i = false → Effect i s (s.setPc target)
  /-- JSR and JSRR -/
  | calls (target : Word) : mayWritePc i = true → mayWriteCond i = false → mayWriteReg i .r7 = true →
      Effect i s (s.link.setPc target)
  /-- the operate instructions, the loads and LEA -/
  | writes (u : State) (dr : Reg) (v : Word) : ReadFrame s u → (¬ ReadsStatus s i → u = s) → mayWriteCond i = true →
      mayWriteReg i dr = true → Effect i s (u.writeRegCC dr v)
  /-- the stores -/
  | stores (u : State) (a v : Word) : ReadFrame s u → (¬ ReadsStatus s i → u = s) → mayWriteCond i = false →
      Effect i s (u.memWrite a v)
  /-- the reserved opcodes -/
  | reserved : i = .reserved8 ∨ i = .reserved13 → Effect i s (s.raise .reservedOpcode)
  /-- TRAP -/
  | traps (vec : BitVec 8) : IsTrap i vec → Effect i s (s.link.trapDispatch vec)

theorem State.memRead_snd_of_not {s : State} {a : Word} (h : ¬ a = s.params.kbsrAddr) : (s.memRead a).2 = s := by
  rw [State.memRead_of_ne h]

theorem exec_effect {i : Instr} {s t : State} (h : exec i s = .next t) : Effect i s t := by
  cases i with
  | br mask off =>
    by_cases hb : mask &&& s.cond ≠ 0
    · rw [exec, execBr, if_pos hb] at h
      cases h; exact .jumps _ rfl rfl
    · rw [exec, execBr, if_neg hb] at h
      cases h; exact .jumps s.pc rfl rfl
  | jmp => cases h; exact .jumps _ rfl rfl
  | jsr | jsrr => cases h; exact .calls _ rfl rfl rfl
  | addReg dr | addImm dr | andReg dr | andImm dr | not dr | lea dr =>
    cases h; exact .writes s dr _ (.refl s) (fun _ => rfl) rfl (beq_self_eq_true dr)
  | ld dr | ldr dr =>
    cases h; exact .writes _ dr _ (.read s _) State.memRead_snd_of_not rfl (beq_self_eq_true dr)
  | ldi dr off =>
    cases h
    refine .writes _ dr _ ((ReadFrame.read s _).trans (.read _ _)) (fun hn => ?_) rfl (beq_self_eq_true dr)
    obtain ⟨hptr, hdata⟩ := not_or.mp hn
    rw [State.memRead_of_ne hptr]
    exact State.memRead_snd_of_not hdata
  | st | str => cases h; exact .stores s _ _ (.refl s) (fun _ => rfl) rfl
  | sti => cases h; exact .stores _ _ _ (.read s _) State.memRead_snd_of_not rfl
  | reserved8 => cases h; exact .reserved (.inl rfl)
  | reserved13 => cases h; exact .reserved (.inr rfl)
  | trap vec => cases h; exact .traps vec (.trap vec)
  | getc => cases h; exact .traps _ .getc
  | out => cases h; exact .traps _ .out
  | puts => cases h; exact .traps _ .puts
  | inp => cases h; exact .traps _ .inp
  | putsp => cases h; exact .traps _ .putsp
  | halt => cases h; exact .traps _ .halt

theorem State.link_kept (s : State) : Kept s s.link := .control s _ _ _ _ _

theorem State.trapDispatch_kept (s : State) (vec : BitVec 8) : Kept s (s.trapDispatch vec) := by
  obtain h | ⟨-, h⟩ | ⟨-, -, h⟩ := s.trapDispatch_effect vec
  · exact h.toKept
  · rw [h]; exact s.haltRoutine_kept
  · rw [h]; exact .control s _ _ _ _ _

section Instruction
variable {i : Instr} {s t : State}

theorem Effect.kept (h : Effect i s t) : Kept s t := by
  cases h with
  | jumps => exact .control s _ _ _ _ _
  | calls => exact .control s _ _ _ _ _
  | writes u dr v hu => exact hu.toKept.trans (.writeRegCC _ _ _)
  | stores u a v hu => exact hu.toKept.trans (.setCell _ _ _)
  | reserved => exact .control s _ _ _ _ _
  | traps vec => exact s.link_kept.trans (s.link.trapDispatch_kept vec)

theorem State.trapDispatch_reg {vec : BitVec 8} {r : Reg} (hr : (r == .r0 && readsKeyboard (.trap vec)) = false) :
    (s.trapDispatch vec).reg r = s.reg r := by
  obtain h | ⟨-, h⟩ | ⟨-, -, h⟩ := s.trapDispatch_effect vec
  · exact h.regs r hr
  · rw [h, s.haltRoutine_eq]; rfl
  · rw [h]; rfl

theorem Effect.reg (h : Effect i s t) {r : Reg} (hr : mayWriteReg i r = false) : t.reg r = s.reg r := by
  have other {q : Reg} (hq : mayWriteReg i q = true) : r ≠ q := by rintro rfl; rw [hq] at hr; cases hr
  cases h with
  | jumps => rfl
  | calls target _ _ h7 => exact State.reg_setReg_ne s s.pc (other h7)
  | writes u dr v hu _ _ hdr => rw [State.reg_writeRegCC_ne u v (other hdr), hu.reg]
  | stores u a v hu => exact hu.reg r
  | reserved => rfl
  | traps vec ht =>
    obtain ⟨h7, h0⟩ := Bool.or_eq_false_iff.mp ((ht.mayWriteReg r).symm.trans hr)
    exact (State.trapDispatch_reg h0).trans (State.reg_setReg_ne s s.pc (by simpa using h7))

theorem State.trapDispatch_cond {vec : BitVec 8} (hv : readsKeyboard (.trap vec) = false) :
    (s.trapDispatch vec).cond = s.cond := by
  obtain h | ⟨-, h⟩ | ⟨-, -, h⟩ := s.trapDispatch_effect vec
  · exact h.cond hv
  · rw [h, s.haltRoutine_eq]
  · rw [h]; rfl

theorem Effect.cond (h : Effect i s t) (hc : mayWriteCond i = false) : t.cond = s.cond := by
  cases h with
  | jumps | calls | reserved => rfl
  | writes u dr v _ _ hw => rw [hw] at hc; cases hc
  | stores u a v hu => rw [hu.rest]; rfl
  | traps vec ht => exact State.trapDispatch_cond (ht.mayWriteCond.symm.trans hc)

/-- A TRAP that reads the keyboard sets the flags or waits. -/
theorem State.trapDispatch_flags {vec : BitVec 8} (hv : readsKeyboard (.trap vec) = true) :
    oneFlag (s.trapDispatch vec).cond = true ∨ ((s.trapDispatch vec).cond = s.cond ∧
      ((s.trapDispatch vec).pending = some .getc ∨ (s.trapDispatch vec).pending = some .inp)) := by
  obtain h | ⟨rfl, -⟩ | ⟨hd, -⟩ := s.trapDispatch_effect vec
  · exact h.flags hv
  · cases hv
  · rw [readsKeyboard_trap_of_undefined hd] at hv; cases hv

theorem Effect.flags (h : Effect i s t) (hc : mayWriteCond i = true) :
    oneFlag t.cond = true ∨ (t.cond = s.cond ∧ (t.pending = some .getc ∨ t.pending = some .inp)) := by
  cases h with
  | jumps _ _ hn | calls _ _ hn | stores _ _ _ _ _ hn => rw [hn] at hc; cases hc
  | writes u dr v => exact .inl (oneFlag_setcc v)
  | reserved hi => obtain rfl | rfl := hi <;> cases hc
  | traps vec ht => exact s.link.trapDispatch_flags (ht.mayWriteCond.symm.trans hc)

theorem State.trapDispatch_pc (s : State) (vec : BitVec 8) : (s.trapDispatch vec).pc = s.pc := by
  obtain h | ⟨-, h⟩ | ⟨-, -, h⟩ := s.trapDispatch_effect vec
  · exact h.pc
  · rw [h, s.haltRoutine_eq]
  · rw [h]; rfl

theorem Effect.pc (h : Effect i s t) (hp : mayWritePc i = false) : t.pc = s.pc := by
  cases h with
  | jumps _ hw | calls _ hw => rw [hw] at hp; cases hp
  | writes u dr v hu => rw [hu.rest]; rfl
  | stores u a v hu => rw [hu.rest]; rfl
  | reserved => rfl
  | traps vec => exact s.link.trapDispatch_pc vec

/-- The three ways in which an instruction halts (R18, R79), and the cause each records. -/
def HaltsBy (i : Instr) (s t : State) : Prop :=
  (IsTrap i 0x25 ∧ t.fault = s.fault) ∨
  ((i = .reserved8 ∨ i = .reserved13) ∧ t.fault = .reservedOpcode) ∨
  (∃ vec, IsTrap i vec ∧ definedVector vec = false ∧ s.params.unknownTrapPolicy = .fault ∧ t.fault = .unknownTrap)

/-- An instruction leaves the run state and the cause, or halts in one of the three ways. -/
theorem Effect.run_cases (h : Effect i s t) :
    (t.run = s.run ∧ t.fault = s.fault) ∨ (t.run = .halted ∧ t.pending = s.pending ∧ HaltsBy i s t) := by
  cases h with
  | jumps | calls => exact .inl ⟨rfl, rfl⟩
  | writes u dr v hu => rw [hu.rest]; exact .inl ⟨rfl, rfl⟩
  | stores u a v hu => rw [hu.rest]; exact .inl ⟨rfl, rfl⟩
  | reserved hi => exact .inr ⟨rfl, rfl, .inr (.inl ⟨hi, rfl⟩)⟩
  | traps vec ht =>
    obtain h | ⟨rfl, h⟩ | ⟨hd, hp, h⟩ := s.link.trapDispatch_effect vec
    · exact .inl ⟨h.run, h.fault⟩
    · rw [h, State.haltRoutine_eq]
      exact .inr ⟨rfl, rfl, .inl ⟨ht, rfl⟩⟩
    · rw [h]
      exact .inr ⟨rfl, rfl, .inr (.inr ⟨vec, ht, hd, hp, rfl⟩)⟩

theorem State.trapDispatch_flushed {vec : BitVec 8} (h0 : s.unflushed = 0)
    (hb : midBatch (s.trapDispatch vec).pending = false) : (s.trapDispatch vec).unflushed = 0 := by
  obtain h | ⟨-, h⟩ | ⟨-, -, h⟩ := s.trapDispatch_effect vec
  · exact h.flushed h0 hb
  · rw [h, s.haltRoutine_eq]
  · rw [h]; exact h0

/-- An instruction leaves no emission batch open but that of a string routine in progress. -/
theorem Effect.flushed (h : Effect i s t) (h0 : s.unflushed = 0) (hb : midBatch t.pending = false) : t.unflushed = 0 := by
  cases h with
  | jumps | calls | reserved => exact h0
  | writes u dr v hu => rw [hu.rest]; exact h0
  | stores u a v hu => rw [hu.rest]; exact h0
  | traps vec => exact State.trapDispatch_flushed (s := s.link) h0 hb

theorem SameDevices.input (h : SameDevices s t) : t.input = s.input := by
  unfold State.input; rw [h.kbdQ, h.arrivals]

/-- A TRAP that neither polls nor reads the keyboard takes no input. -/
theorem State.trapDispatch_input {vec : BitVec 8} (hs : ¬ ReadsStatus s (.trap vec))
    (hk : readsKeyboard (.trap vec) = false) : (s.trapDispatch vec).input = s.input := by
  obtain ⟨rfl, h⟩ | ⟨rfl, h⟩ | ⟨rfl, h⟩ | ⟨rfl, h⟩ | ⟨rfl, h⟩ | ⟨rfl, h⟩ | ⟨-, h⟩ := s.trapDispatch_cases vec
  · cases hk
  · rw [h]; rfl
  · rw [h]; exact (State.putsLoop_same _ _ s fun hr => hs (.inl ⟨rfl, hr⟩)).input
  · cases hk
  · rw [h]; exact (State.putspLoop_same _ _ s fun hr => hs (.inr ⟨rfl, hr⟩)).input
  · rw [h, s.haltRoutine_eq]; rfl
  · rw [h]
    cases hp : s.params.unknownTrapPolicy with
    | fault => simp only [State.unknownVector, hp]; rfl
    | noop => simp only [State.unknownVector, hp]

/-- An instruction that neither polls nor reads the keyboard takes no input. -/
theorem Effect.input (h : Effect i s t) (hs : ¬ ReadsStatus s i) (hk : readsKeyboard i = false) : t.input = s.input := by
  cases h with
  | jumps | calls | reserved => rfl
  | writes u dr v _ hu => rw [hu hs]; rfl
  | stores u a v _ hu => rw [hu hs]; rfl
  | traps vec ht =>
    exact State.trapDispatch_input (s := s.link) (fun hr => hs (ht.readsStatus hr)) (ht.readsKeyboard.symm.trans hk)

end Instruction

/-! ### One step -/

/-- All that a step can do: nothing in HALTED, go on with a routine, or fetch and execute. -/
theorem step_cases {s t : State} (h : step s = .next t) :
    (s.run = .halted ∧ t = s) ∨
    (s.run = .running ∧ ∃ p, s.pending = some p ∧ t = s.resume p) ∨
    (s.run = .running ∧ s.pending = none ∧ Effect (decode s.fetch.1) s.fetch.2 t) := by
  cases hr : s.run with
  | halted =>
    rw [step, hr] at h
    cases h; exact .inl ⟨rfl, rfl⟩
  | running =>
    cases hp : s.pending with
    | some p =>
      rw [step, hr, hp] at h
      cases h; exact .inr (.inl ⟨rfl, p, rfl, rfl⟩)
    | none =>
      rw [step, hr, hp] at h
      exact .inr (.inr ⟨rfl, rfl, exec_effect h⟩)

theorem step_kept {s t : State} (h : step s = .next t) : Kept s t := by
  obtain ⟨-, rfl⟩ | ⟨-, p, -, rfl⟩ | ⟨-, -, he⟩ := step_cases h
  · exact .refl _
  · exact (s.resume_frame p).toKept
  · exact (Kept.fetch s).trans he.kept

/-- A routine in progress that neither polls nor reads the keyboard takes no input. -/
theorem State.resume_input {s : State} {p : Routine} (h : ¬ routineTakes s p) : (s.resume p).input = s.input := by
  cases p with
  | getc | inp => exact absurd trivial h
  | puts a => exact (State.putsLoop_same _ a s h).input
  | putsp a => exact (State.putspLoop_same _ a s h).input

/-- A step that neither polls nor reads the keyboard takes no input. -/
theorem step_input {s t : State} (h : step s = .next t) (hn : ¬ TakesInput s) : t.input = s.input := by
  obtain ⟨-, rfl⟩ | ⟨hr, p, hp, rfl⟩ | ⟨hr, hp, he⟩ := step_cases h
  · rfl
  · exact State.resume_input (by simpa [TakesInput, hr, hp] using hn)
  · obtain ⟨hpc, hs, hk⟩ : s.pc ≠ s.params.kbsrAddr ∧ ¬ ReadsStatus s.fetch.2 (decode s.fetch.1) ∧
        readsKeyboard (decode s.fetch.1) = false := by simpa [TakesInput, hr, hp] using hn
    rw [he.input hs hk, State.fetch_of_ne hpc]
    rfl

theorem decodeTrap_undefined {v vec : BitVec 8} (h : decodeTrap v = .trap vec) : definedVector vec = false := by
  unfold decodeTrap at h
  split at h
  case h_7 =>
    cases h
    simp only [definedVector, Bool.and_eq_false_iff, decide_eq_false_iff_not, BitVec.le_def]
    simp only [BitVec.reduceToNat]
    simp only [imp_false] at *
    omega
  all_goals cases h

/-- A word that decodes to `trap` has a vector outside the six (R60). -/
theorem decode_trap_undefined {w : Word} {vec : BitVec 8} (h : decode w = .trap vec) : definedVector vec = false := by
  unfold decode at h
  split at h
  case h_16 => exact decodeTrap_undefined h
  case h_2 | h_5 | h_6 => split at h <;> cases h
  all_goals cases h

end Sys2Proof.Machine
end


section
/-! PROOFS. The invariant: reset has it, and every step and everything the host may do keeps it. -/

namespace Sys2Proof.Machine

/-- Parameters that meet R6 have one reset flag and canonical reset memory. -/
theorem reset_of_paramsWf {p : Params} (h : paramsWf p = true) : oneFlag p.condReset = true ∧ Memory.wf p.memReset = true := by
  simp only [paramsWf, Bool.and_eq_true] at h
  exact ⟨h.1.2, h.2⟩

theorem resetWith_inv {p : Params} (h : paramsWf p = true) : Inv (State.resetWith p) where
  memWf := (reset_of_paramsWf h).2
  oneFlag := (reset_of_paramsWf h).1
  faultHalts hf := absurd rfl hf
  pendingRuns hp := absurd rfl hp
  flushed _ := rfl
  batchInOut := Nat.zero_le _
  paramsWf := h

section Keeps
variable {s t : State}

/-- What is left to show of a next state beside what every operation keeps: its run state against its cause and its routine, and its
open batch. -/
theorem Inv.of_kept (hi : Inv s) (hk : Kept s t)
    (hrun : (t.run = .running ∧ t.fault = .none) ∨ (t.run = .halted ∧ t.pending = none))
    (hb : midBatch t.pending = false → t.unflushed = 0) : Inv t where
  memWf := hk.wf hi.memWf
  oneFlag := hk.oneFlag hi.oneFlag
  faultHalts hf := hrun.elim (fun h => absurd h.2 hf) And.left
  pendingRuns hp := hrun.elim And.left (fun h => absurd h.2 hp)
  flushed := hb
  batchInOut := hk.batch hi.batchInOut
  paramsWf := by rw [hk.params]; exact hi.paramsWf

theorem Inv.fault_of_running (hi : Inv s) (hr : s.run = .running) : s.fault = .none := by
  by_contra hf
  rw [hi.faultHalts hf] at hr
  cases hr

theorem Inv.resume (hi : Inv s) (hr : s.run = .running) {p : Routine} (hp : s.pending = some p) : Inv (s.resume p) := by
  have h := s.resume_frame p
  refine hi.of_kept h.toKept (.inl ⟨h.run.trans hr, h.fault.trans (hi.fault_of_running hr)⟩) (State.resume_flushed ?_)
  rw [← hp]; exact hi.flushed

theorem Inv.fetch (hi : Inv s) (hr : s.run = .running) : Inv s.fetch.2 := by
  rw [s.fetch_eq]
  exact hi.of_kept (.fetch s) (.inl ⟨by simp [hr], by simp [hi.fault_of_running hr]⟩) (by simpa using hi.flushed)

theorem Inv.exec {i : Instr} (hi : Inv s) (hr : s.run = .running) (hp : s.pending = none) (h : Effect i s t) : Inv t := by
  refine hi.of_kept h.kept ?_ (h.flushed (hi.flushed (by rw [hp]; rfl)))
  obtain ⟨hrun, hf⟩ | ⟨hrun, hpend, -⟩ := h.run_cases
  · exact .inl ⟨hrun.trans hr, hf.trans (hi.fault_of_running hr)⟩
  · exact .inr ⟨hrun, hpend.trans hp⟩

/-- What the host may do between steps: append to the queue, or plan what it will append. -/
theorem Inv.host (hi : Inv s) (q : List Byte) (batches : List (List Byte)) : Inv { s with kbdQ := q, arrivals := batches } :=
  ⟨hi.memWf, hi.oneFlag, hi.faultHalts, hi.pendingRuns, hi.flushed, hi.batchInOut, hi.paramsWf⟩

theorem Inv.withMem (hi : Inv s) {m : Memory} (hm : Memory.wf m = true) : Inv { s with mem := m } :=
  ⟨hm, hi.oneFlag, hi.faultHalts, hi.pendingRuns, hi.flushed, hi.batchInOut, hi.paramsWf⟩

end Keeps

theorem boot_inv {p : Params} {images : List (Option (List Byte))} {s : State} (hp : paramsWf p = true)
    (h : boot p images = some s) : Inv s := by
  obtain ⟨he, hm⟩ := State.loadImages_some h
  have hi := resetWith_inv hp
  rw [he]; exact hi.withMem (hm hi.memWf)

end Sys2Proof.Machine
end

section
/-! PROOFS. The obligations over state, steps and reset. -/

namespace Sys2Proof.Machine

/-- Settles O58: a step goes on with a routine, or fetches and executes, and each keeps the invariant. -/
theorem stepKeepsInvariant : Obligations.StepKeepsInvariant := by
  intro s t hi h
  obtain ⟨-, rfl⟩ | ⟨hr, p, hp, rfl⟩ | ⟨hr, hp, he⟩ := step_cases h
  · exact hi
  · exact hi.resume hr hp
  · exact (hi.fetch hr).exec (by simp [State.fetch_eq, hr]) (by simp [State.fetch_eq, hp]) he

/-- Settles O44: each kind of effect writes none but the named register. -/
theorem onlyNamedRegistersChange : Obligations.OnlyNamedRegistersChange :=
  fun _ _ _ _ h hr => (exec_effect h).reg hr

/-- Settles O45: the flags are set by the flag-updating effects only, or are still to be set by a routine that waits. -/
theorem onlyFlagUpdatersChangeCond : Obligations.OnlyFlagUpdatersChangeCond :=
  fun _ _ _ h => ⟨(exec_effect h).cond, (exec_effect h).flags⟩

/-- Settles O46: the fetch advances `pc`, and only a control instruction writes it again. -/
theorem onlyControlWritesPc : Obligations.OnlyControlWritesPc := by
  intro s t hr h
  obtain ⟨hh, -⟩ | ⟨-, p, hp, rfl⟩ | ⟨-, hp, he⟩ := step_cases h
  · rw [hr] at hh; cases hh
  · exact ⟨fun hn => (nomatch hp.symm.trans hn), fun _ => (s.resume_frame p).pc⟩
  · exact ⟨fun _ hi => he.pc hi, fun hn => absurd hp hn⟩

/-- Settles O48: a resumed routine goes on running, and an instruction halts in one of three ways. -/
theorem onlyThreeWaysToHalt : Obligations.OnlyThreeWaysToHalt := by
  intro s t hr h ht
  obtain ⟨hh, -⟩ | ⟨-, p, hp, rfl⟩ | ⟨-, hp, he⟩ := step_cases h
  · rw [hr] at hh; cases hh
  · rw [(s.resume_frame p).run, hr] at ht; cases ht
  · refine ⟨hp, ?_⟩
    obtain ⟨hrun, -⟩ | ⟨-, -, ⟨hi, hf⟩ | hres | ⟨vec, hi, hd, hpol, hf⟩⟩ := he.run_cases
    · simp [hrun, State.fetch_eq, hr] at ht
    · obtain hw | hw := hi.halt_cases
      · exact .inl ⟨hw, by simpa [State.fetch_eq] using hf⟩
      · exact absurd (decode_trap_undefined hw) (by decide)
    · exact .inr (.inl hres)
    · exact .inr (.inr ⟨vec, hi.eq_trap hd, hd, by simpa [State.fetch_eq] using hpol, hf⟩)

/-- Settles O49: the parameters are among what every operation keeps. -/
theorem parametersNeverChange : Obligations.ParametersNeverChange := fun _ _ h => (step_kept h).params

/-- Settles O52: what a step leaves of the input is its end, and all of it where the step neither polls nor reads. -/
theorem keyboardIsFirstInFirstOut : Obligations.KeyboardIsFirstInFirstOut := by
  refine ⟨fun s => ⟨s.kbdTake_input, s.kbdTake_input⟩, fun s t h => ?_⟩
  obtain ⟨taken, htaken⟩ := (step_kept h).input
  refine ⟨taken, htaken.symm, fun hn => ?_⟩
  rw [step_input h hn] at htaken
  exact List.append_left_eq_self.mp htaken

/-- Settles O57: the defaults meet R6 too. -/
theorem resetMeetsInvariant : Obligations.ResetMeetsInvariant := ⟨resetWith_inv (by decide), fun _ => resetWith_inv⟩

/-- Settles O59: boot has the invariant, and steps and the host keep it. -/
theorem reachableStatesMeetInvariant : Obligations.ReachableStatesMeetInvariant := by
  intro s h
  induction h with
  | booted p images s hp hb => exact boot_inv hp hb
  | typed s cs _ ih => exact ih.host (s.kbdQ ++ cs) s.arrivals
  | planned s batches _ ih => exact ih.host s.kbdQ batches
  | stepped s t _ h ih => exact stepKeepsInvariant s t ih h

/-- Settles O53: every field is the default parameter that reset copies. -/
theorem resetLeavesDefaults : Obligations.ResetLeavesDefaults :=
  ⟨fun r => by cases r <;> rfl, rfl, rfl, rfl, rfl, fun _ => rfl, rfl, rfl, rfl, rfl⟩

end Sys2Proof.Machine
end

section
/-! PROOFS. Memory and the keyboard cells (spec/20_memory.md R32 to R36): what a status read does, and which cells an instruction can
change. -/

namespace Sys2Proof.Machine

/-! ### The status read (R33) -/

theorem State.deliver_kbdQ (s : State) : s.deliver.kbdQ = s.kbdQ ++ s.arrivals.headD [] := by
  obtain ⟨ha, h⟩ | ⟨b, bs, ha, h⟩ := s.deliver_cases <;> simp [h, ha]

theorem State.deliver_arrivals (s : State) : s.deliver.arrivals = s.arrivals.tail := by
  obtain ⟨ha, h⟩ | ⟨b, bs, ha, h⟩ := s.deliver_cases <;> simp [h, ha]

/-- The probe with a character pending. -/
theorem State.kbsrProbe_of_cons {s : State} {c : Byte} {q : List Byte} (hq : s.kbdQ ++ s.arrivals.headD [] = c :: q) :
    s.kbsrProbe = (({ s with kbdQ := q, arrivals := s.arrivals.tail } : State).setCell s.params.kbsrAddr
      (s.cell s.params.kbsrAddr ||| 0x8000)).setCell s.params.kbdrAddr (zext8 c) := by
  rw [← s.deliver_kbdQ] at hq
  obtain ⟨hn, -⟩ | ⟨c', q', hc, h⟩ := s.kbsrProbe_cases
  · rw [hn] at hq; cases hq
  · obtain ⟨rfl, rfl⟩ := List.cons.inj (hc.symm.trans hq)
    rw [h, s.deliver_eq, s.deliver_arrivals]

/-- The probe with no character pending. -/
theorem State.kbsrProbe_of_nil {s : State} (hq : s.kbdQ ++ s.arrivals.headD [] = []) :
    s.kbsrProbe = ({ s with kbdQ := [], arrivals := s.arrivals.tail } : State).setCell s.params.kbsrAddr
      (s.cell s.params.kbsrAddr &&& 0x7FFF) := by
  rw [← s.deliver_kbdQ] at hq
  obtain ⟨-, h⟩ | ⟨c, q, hc, -⟩ := s.kbsrProbe_cases
  · rw [h, s.deliver_eq, s.deliver_arrivals, hq]
  · rw [hc] at hq; cases hq

/-- Settles O27: only a read of KBSR_ADDR runs the probe. -/
theorem plainReadsArePure : Obligations.PlainReadsArePure := fun _ _ => State.memRead_of_ne

/-- Settles O28: the probe writes one or both of two different cells, after it has taken what is there. -/
theorem statusReadPollsKeyboard : Obligations.StatusReadPollsKeyboard := by
  intro s hm hne
  refine ⟨fun c q hq => ?_, fun hq => ?_⟩ <;> refine ⟨s.kbsrProbe, ?_⟩
  · have hp := State.kbsrProbe_of_cons hq
    have hsr : s.kbsrProbe.cell s.params.kbsrAddr = s.cell s.params.kbsrAddr ||| 0x8000 := by
      rw [hp, State.cell_setCell_ne _ _ hne]; exact State.cell_setCell_self _ _ hm
    refine ⟨by rw [s.memRead_kbsr, hsr], hsr, ?_, fun a => s.kbsrProbe_cell_ne, by rw [hp]; rfl⟩
    rw [hp]; exact State.cell_setCell_self _ _ (Memory.wf_write _ _ hm)
  · have hp := State.kbsrProbe_of_nil hq
    have hsr : s.kbsrProbe.cell s.params.kbsrAddr = s.cell s.params.kbsrAddr &&& 0x7FFF := by
      rw [hp]; exact State.cell_setCell_self _ _ hm
    exact ⟨by rw [s.memRead_kbsr, hsr], hsr, fun a ha => by rw [hp]; exact State.cell_setCell_ne _ _ ha, by rw [hp]; rfl⟩

/-- A word with bit 15 set sets N (R76). -/
theorem setcc_of_bit15 {v : Word} (h : v.getLsbD 15 = true) : setcc v = 0b100 := by
  have hv : v ≠ 0x0000 := by rintro rfl; cases h
  rw [setcc, if_neg hv, if_pos h]

/-- LDI with a plain pointer cell: the pointer read leaves the state, and the data read is made at the pointer. -/
theorem exec_ldi_of_ne {s : State} {dr : Reg} {off : BitVec 9} (h : s.pcRel9 off ≠ s.params.kbsrAddr) :
    exec (.ldi dr off) s = .next (s.loadInto dr (s.cell (s.pcRel9 off))) := by
  rw [exec, execLdi, State.memRead_of_ne h]

/-- Settles O29: the data read is a status read with a character pending. -/
theorem ldiPollsKeyboard : Obligations.LdiPollsKeyboard := by
  intro s dr off c q hm hne hpc hptr hq
  obtain ⟨t, hread, -, hdr, -, ht⟩ := (statusReadPollsKeyboard s hm hne).1 c q hq
  have hcell : s.cell (s.pcRel9 off) = s.params.kbsrAddr := hptr
  refine ⟨t.writeRegCC dr (s.cell s.params.kbsrAddr ||| 0x8000), ?_, State.reg_writeRegCC_self _ _ _, ?_, hdr,
    by rw [State.writeRegCC_kbdQ, ht]⟩
  · rw [exec_ldi_of_ne hpc, hcell, State.loadInto, hread]
  · rw [State.flagN, State.writeRegCC_cond, setcc_of_bit15 (by simp)]
    rfl

/-! ### A store and the next fetch (R45) -/

theorem State.pcRel9_zero (s : State) : s.pcRel9 0 = s.pc := by simp [State.pcRel9, sext9]

/-- A step that fetches from a plain cell runs the word stored there. -/
theorem step_of_plain_fetch {s : State} (hr : s.run = .running) (hp : s.pending = none) (hpc : s.pc ≠ s.params.kbsrAddr) :
    step s = exec (decode (s.cell s.pc)) { s with pc := s.pc + 1 } := by
  have hs : step s = exec (decode s.fetch.1) s.fetch.2 := by simp only [step, hr, hp]
  rw [hs, State.fetch_of_ne hpc]

/-- Settles O26: the cell stored to is the cell at `pc`, and the store leaves all that the fetch depends on. -/
theorem storedWordIsFetchedNext : Obligations.StoredWordIsFetchedNext := by
  intro s sr hm hr hp hpc
  refine ⟨s.memWrite s.pc (s.reg sr), by rw [exec, execSt, s.pcRel9_zero], ?_⟩
  have hstep := step_of_plain_fetch (s := s.memWrite s.pc (s.reg sr)) hr hp hpc
  rwa [State.memWrite_pc, State.cell_memWrite_self _ _ hm] at hstep

/-! ### The routines that leave memory as it is -/

theorem State.getcRead_mem (s : State) : s.getcRead.mem = s.mem := by
  obtain ⟨-, h⟩ | ⟨c, q, -, h⟩ := s.getcRead_cases <;> rw [h] <;> exact s.deliver_mem

theorem State.inpRead_mem (s : State) : s.inpRead.mem = s.mem := by
  obtain ⟨-, h⟩ | ⟨c, q, -, h⟩ := s.inpRead_cases <;> rw [h] <;> exact s.deliver_mem

theorem State.inpRoutine_mem (s : State) : s.inpRoutine.mem = s.mem :=
  s.inpPrompt.inpRead_mem.trans (by rw [s.inpPrompt_eq])

theorem State.haltRoutine_mem (s : State) : s.haltRoutine.mem = s.mem := by rw [s.haltRoutine_eq]

theorem State.unknownVector_mem (s : State) : s.unknownVector.mem = s.mem := by
  cases h : s.params.unknownTrapPolicy <;> simp [State.unknownVector, h]

/-! ### Which cells an instruction can change (R35, R36, R120) -/

/-- What the reads of `i` do to memory from `s` to `u`: no cell but the keyboard cells changes, and none where no read is of
KBSR_ADDR. -/
structure ReadsOnly (i : Instr) (s u : State) : Prop where
  cells : ∀ a, a ≠ s.params.kbsrAddr → a ≠ s.params.kbdrAddr → u.cell a = s.cell a
  pure : ¬ ReadsStatus s i → u.mem = s.mem

section Reads
variable {i : Instr} {s t u : State}

theorem ReadsOnly.of_mem (h : u.mem = s.mem) : ReadsOnly i s u := ⟨fun a _ _ => State.cell_congr h a, fun _ => h⟩

theorem ReadsOnly.cell (h : ReadsOnly i s u) (a : Word) :
    (a ≠ s.params.kbsrAddr → a ≠ s.params.kbdrAddr → u.cell a = s.cell a) ∧ (¬ ReadsStatus s i → u.cell a = s.cell a) :=
  ⟨h.cells a, fun hn => State.cell_congr (h.pure hn) a⟩

/-- One read, of a form that reads the status where that read does. -/
theorem ReadsOnly.read {a : Word} (h : a = s.params.kbsrAddr → ReadsStatus s i) : ReadsOnly i s (s.memRead a).2 :=
  ⟨fun _ => s.memRead_cell_ne a, fun hn => congrArg State.mem (State.memRead_snd_of_not (mt h hn))⟩

theorem ReadsOnly.writeRegCC (h : ReadsOnly i s u) (r : Reg) (v : Word) : ReadsOnly i s (u.writeRegCC r v) :=
  ⟨h.cells, h.pure⟩

theorem ReadsOnly.string (h : StringFrame s u) (hp : ¬ ReadsStatus s i → SameDevices s u) : ReadsOnly i s u :=
  ⟨h.cells, fun hn => (hp hn).mem⟩

/-- The two reads of LDI; where the pointer read is plain, the data read is made at the pointer cell's word. -/
theorem ReadsOnly.ldi (s : State) (dr : Reg) (off : BitVec 9) :
    ReadsOnly (.ldi dr off) s ((s.memRead (s.pcRel9 off)).2.memRead (s.memRead (s.pcRel9 off)).1).2 where
  cells := ((StringFrame.read s _).trans (.read _ _)).cells
  pure hn := by
    obtain ⟨hptr, hdata⟩ := not_or.mp hn
    rw [State.memRead_of_ne hptr, State.memRead_of_ne hdata]

/-- Of the routines only the two string routines read memory, and none stores. -/
theorem State.trapDispatch_readsOnly (s : State) (vec : BitVec 8) : ReadsOnly (.trap vec) s (s.trapDispatch vec) := by
  obtain ⟨-, h⟩ | ⟨-, h⟩ | ⟨rfl, h⟩ | ⟨-, h⟩ | ⟨rfl, h⟩ | ⟨-, h⟩ | ⟨-, h⟩ := s.trapDispatch_cases vec <;> rw [h]
  · exact .of_mem s.getcRead_mem
  · exact .of_mem rfl
  · exact .string (State.putsLoop_frame _ _ s) fun hn => State.putsLoop_same _ _ s fun hr => hn (.inl ⟨rfl, hr⟩)
  · exact .of_mem s.inpRoutine_mem
  · exact .string (State.putspLoop_frame _ _ s) fun hn => State.putspLoop_same _ _ s fun hr => hn (.inr ⟨rfl, hr⟩)
  · exact .of_mem s.haltRoutine_mem
  · exact .of_mem s.unknownVector_mem

theorem IsTrap.readsOnly {vec : BitVec 8} (h : IsTrap i vec) : ReadsOnly i s (s.link.trapDispatch vec) where
  cells := (s.link.trapDispatch_readsOnly vec).cells
  pure hn := (s.link.trapDispatch_readsOnly vec).pure fun hr => hn (h.readsStatus hr)

/-- All that an instruction can do to memory: what its reads do, and then perhaps a store at its store address. -/
theorem exec_memory (h : exec i s = .next t) :
    ReadsOnly i s t ∨ ∃ u b v, ReadsOnly i s u ∧ storeAddr s i = some b ∧ t = u.memWrite b v := by
  cases i with
  | st | str => cases h; exact .inr ⟨s, _, _, .of_mem rfl, rfl, rfl⟩
  | sti => cases h; exact .inr ⟨_, _, _, .read id, rfl, rfl⟩
  | ld | ldr => cases h; exact .inl (.writeRegCC (.read id) _ _)
  | ldi dr off => cases h; exact .inl (.writeRegCC (.ldi s dr off) _ _)
  | br mask off => cases h; exact .inl (.of_mem (by split <;> rfl))
  | jmp | jsr | jsrr | addReg | addImm | andReg | andImm | not | lea | reserved8 | reserved13 =>
    cases h; exact .inl (.of_mem rfl)
  | trap vec => cases h; exact .inl (IsTrap.trap vec).readsOnly
  | getc => cases h; exact .inl IsTrap.getc.readsOnly
  | out => cases h; exact .inl IsTrap.out.readsOnly
  | puts => cases h; exact .inl IsTrap.puts.readsOnly
  | inp => cases h; exact .inl IsTrap.inp.readsOnly
  | putsp => cases h; exact .inl IsTrap.putsp.readsOnly
  | halt => cases h; exact .inl IsTrap.halt.readsOnly

end Reads

/-- Settles O47: a store at another address leaves the cell as the reads left it. -/
theorem onlyStoresAndProbeWriteMemory : Obligations.OnlyStoresAndProbeWriteMemory := by
  intro i s t a h ha
  obtain hr | ⟨u, b, v, hr, hb, rfl⟩ := exec_memory h
  · exact hr.cell a
  · have hab : a ≠ b := by rintro rfl; exact ha hb
    rw [State.cell_memWrite_ne u v hab]
    exact hr.cell a

end Sys2Proof.Machine
end


section
/-! PROOFS. The encoding (spec/30_encoding.md R50 to R62): `decode` and `encode` are inverse up to the bits a format ignores. The one
notion is `Carries w i`, "`w` is the word of `i` on all the bits `i`'s format uses": every word carries the instruction it decodes to,
and decodes to any well-formed instruction it carries. -/

namespace Sys2Proof

/-! ### Register numbers and fields (R51, R62) -/

@[simp] theorem Reg.ofBits_toBits (r : Reg) : Reg.ofBits r.toBits = r := by cases r <;> rfl

@[simp] theorem Reg.toBits_ofBits (b : BitVec 3) : (Reg.ofBits b).toBits = b := by
  obtain ⟨n, hn⟩ := b
  interval_cases n <;> rfl

theorem getLsbD_place {n : Nat} (v : BitVec n) (lsb k : Nat) :
    (place v lsb).getLsbD k = (decide (k < 16) && decide (lsb ≤ k) && v.getLsbD (k - lsb)) := by
  by_cases hl : lsb ≤ k
  · by_cases hk : k < 16 <;> simp [place, hk, hl]
  · simp [place, hl, Nat.lt_of_not_le hl]

@[simp] theorem extractLsb'_place_self {n : Nat} (v : BitVec n) {lsb : Nat} (h : lsb + n ≤ 16) :
    (place v lsb).extractLsb' lsb n = v := by
  refine BitVec.eq_of_getLsbD_eq fun k hk => ?_
  simp only [BitVec.getLsbD_extractLsb', getLsbD_place]
  simp [show lsb + k < 16 by omega, hk]

@[simp] theorem extractLsb'_place_disjoint {n : Nat} (v : BitVec n) {lsb p l : Nat} (h : lsb + n ≤ p ∨ p + l ≤ lsb) :
    (place v lsb).extractLsb' p l = 0#l := by
  refine BitVec.eq_of_getLsbD_eq fun k hk => ?_
  rcases h with h | h
  · simp [getLsbD_place, v.getLsbD_of_ge (p + k - lsb) (by omega)]
  · simp [getLsbD_place, show ¬ lsb ≤ p + k by omega]

/-- A field put back at its place is the word under the field's mask. -/
theorem place_extractLsb' (w : Word) (p l : Nat) : place (w.extractLsb' p l) p = w &&& place (BitVec.allOnes l) p := by
  refine BitVec.eq_of_getLsbD_eq fun k hk => ?_
  simp only [BitVec.getLsbD_and, BitVec.getLsbD_extractLsb', getLsbD_place, BitVec.getLsbD_allOnes]
  by_cases hp : p ≤ k
  · simp [hp, hk, Bool.and_comm]
  · simp [hp]

/-! ### Words under a mask -/

/-- Words that agree on a mask agree on every part of it. -/
theorem and_congr_of_mask {w v m r : Word} (h : w &&& m = v &&& m) (hr : m &&& r = r) : w &&& r = v &&& r := by
  rw [← hr, ← BitVec.and_assoc, h, BitVec.and_assoc]

/-- Words that agree on a mask agree on every field inside it. -/
theorem extractLsb'_congr_of_mask {w v m : Word} (h : w &&& m = v &&& m) {p l : Nat}
    (hm : m.extractLsb' p l = BitVec.allOnes l) : w.extractLsb' p l = v.extractLsb' p l := by
  have hf := congrArg (BitVec.extractLsb' p l) h
  simpa only [BitVec.extractLsb'_and, hm, BitVec.and_allOnes] using hf

/-- Bits known under two masks are known under both. -/
theorem and_or_eq {w a b x y : Word} (ha : w &&& a = x) (hb : w &&& b = y) : w &&& (a ||| b) = x ||| y := by
  rw [BitVec.and_or_distrib_left, ha, hb]

/-! ### What a row of the opcode table fixes (R61) -/

theorem encode_row (i : Instr) : encode i &&& rowMask i = rowMatch i := by
  cases i with
  | br mask off => exact Laws.RowWord.br mask off
  | addReg dr sr1 sr2 => exact Laws.RowWord.addReg dr sr1 sr2
  | addImm dr sr1 imm => exact Laws.RowWord.addImm dr sr1 imm
  | ld dr off => exact Laws.RowWord.ld dr off
  | st sr off => exact Laws.RowWord.st sr off
  | jsrr base => exact Laws.RowWord.jsrr base
  | jsr off => exact Laws.RowWord.jsr off
  | andReg dr sr1 sr2 => exact Laws.RowWord.andReg dr sr1 sr2
  | andImm dr sr1 imm => exact Laws.RowWord.andImm dr sr1 imm
  | ldr dr base off => exact Laws.RowWord.ldr dr base off
  | str sr base off => exact Laws.RowWord.str sr base off
  | reserved8 => exact Laws.RowWord.reserved8
  | not dr sr => exact Laws.RowWord.not dr sr
  | ldi dr off => exact Laws.RowWord.ldi dr off
  | sti sr off => exact Laws.RowWord.sti sr off
  | jmp base => exact Laws.RowWord.jmp base
  | reserved13 => exact Laws.RowWord.reserved13
  | lea dr off => exact Laws.RowWord.lea dr off
  | trap vec => exact Laws.RowWord.trap vec
  | getc => exact Laws.RowWord.getc
  | out => exact Laws.RowWord.out
  | puts => exact Laws.RowWord.puts
  | inp => exact Laws.RowWord.inp
  | putsp => exact Laws.RowWord.putsp
  | halt => exact Laws.RowWord.halt

/-- No bit that selects a row is ignored. -/
theorem rowMask_used (i : Instr) : ~~~(ignoredBits i) &&& rowMask i = rowMask i := by
  cases i <;> simp only [ignoredBits, rowMask] <;> decide

/-- Every row fixes the opcode. -/
theorem opcodeField_rowMask (i : Instr) : opcodeField (rowMask i) = BitVec.allOnes 4 := by
  cases i <;> simp only [rowMask] <;> decide

section Row
variable {w : Word} {i : Instr} (h : w &&& rowMask i = rowMatch i)
include h

theorem opcodeField_of_row : opcodeField w = opcodeField (rowMatch i) := by
  rw [← h, opcodeField, opcodeField, BitVec.extractLsb'_and, ← opcodeField, ← opcodeField, opcodeField_rowMask,
    BitVec.and_allOnes]

theorem immFlag_of_row (hm : immFlag (rowMask i) = true := by simp only [rowMask]; decide) :
    immFlag w = immFlag (rowMatch i) := by
  rw [← h, immFlag, immFlag, BitVec.getLsbD_and, ← immFlag, ← immFlag, hm, Bool.and_true]

theorem longFlag_of_row (hm : longFlag (rowMask i) = true := by simp only [rowMask]; decide) :
    longFlag w = longFlag (rowMatch i) := by
  rw [← h, longFlag, longFlag, BitVec.getLsbD_and, ← longFlag, ← longFlag, hm, Bool.and_true]

end Row

/-! ### Words that carry an instruction (R58, R61) -/

/-- `w` is the word of `i` on every bit that `i`'s format uses. -/
def Carries (w : Word) (i : Instr) : Prop := encode i &&& ~~~(ignoredBits i) = w &&& ~~~(ignoredBits i)

section Carried
variable {w : Word} {i : Instr}

theorem Carries.row (h : Carries w i) : w &&& rowMask i = rowMatch i :=
  (and_congr_of_mask h.symm (rowMask_used i)).trans (encode_row i)

/-- A field that no ignored bit touches is the field of the instruction's word. -/
theorem Carries.field (h : Carries w i) (p l : Nat)
    (hu : (~~~(ignoredBits i)).extractLsb' p l = BitVec.allOnes l := by simp only [ignoredBits]; decide) :
    w.extractLsb' p l = (encode i).extractLsb' p l :=
  extractLsb'_congr_of_mask h.symm hu

/-- Where the row fixes all the bits the format uses, the row alone decides. -/
theorem Carries.of_row (hrow : w &&& rowMask i = rowMatch i)
    (hi : rowMask i = ~~~(ignoredBits i) := by simp only [ignoredBits, rowMask]; decide) : Carries w i := by
  rw [Carries, ← hi, hrow, encode_row]

/-- `w` carries `i` when it has the bits `i`'s row fixes and `i`'s operands are `w`'s own bits under a mask `m`, and the row and `m`
cover the bits the format uses. -/
theorem Carries.of_operands {b m : Word} (hrow : w &&& rowMask i = rowMatch i) (henc : encode i = b ||| (w &&& m))
    (hb : b &&& ~~~(ignoredBits i) = rowMatch i := by simp only [ignoredBits, rowMatch]; decide)
    (hm : rowMask i ||| (m &&& ~~~(ignoredBits i)) = ~~~(ignoredBits i) := by simp only [ignoredBits, rowMask]; decide) :
    Carries w i := by
  rw [Carries, henc, BitVec.and_or_distrib_right, hb, ← hrow, BitVec.and_assoc, ← BitVec.and_or_distrib_left, hm]

end Carried

/-! ### A word decodes to the instruction it carries -/

theorem decodeTrap_of_undefined {vec : BitVec 8} (h : definedVector vec = false) : decodeTrap vec = .trap vec := by
  unfold decodeTrap
  split
  case h_7 => rfl
  all_goals
    obtain ⟨⟨n, hn⟩⟩ := vec
    simp_all [definedVector, BitVec.le_def]

/-- The row gives the opcode and the flag that `decode` branches on; each field it then reads is the operand placed there. -/
theorem Carries.decode_eq {w : Word} {i : Instr} (hi : i.WellFormed = true) (h : Carries w i) : decode w = i := by
  rw [decode, opcodeField_of_row h.row]
  cases i with
  | br mask off =>
    simp [opcodeField, rowMatch, maskField, pcOffset9Field, h.field 9 3, h.field 0 9, encode, BitVec.extractLsb'_or]
  | addReg dr sr1 sr2 | andReg dr sr1 sr2 =>
    rw [immFlag_of_row h.row]
    simp [immFlag, opcodeField, rowMatch, regField11, regField8, regField2, h.field 9 3, h.field 6 3, h.field 0 3, encode,
      BitVec.extractLsb'_or]
  | addImm dr sr1 imm | andImm dr sr1 imm =>
    rw [immFlag_of_row h.row]
    simp [immFlag, opcodeField, rowMatch, regField11, regField8, imm5Field, h.field 9 3, h.field 6 3, h.field 0 5, encode,
      BitVec.extractLsb'_or]
  | ld r off | st r off | ldi r off | sti r off | lea r off =>
    simp [opcodeField, rowMatch, regField11, pcOffset9Field, h.field 9 3, h.field 0 9, encode, BitVec.extractLsb'_or]
  | jsrr base =>
    rw [longFlag_of_row h.row]
    simp [longFlag, opcodeField, rowMatch, regField8, h.field 6 3, encode, BitVec.extractLsb'_or]
  | jsr off =>
    rw [longFlag_of_row h.row]
    simp [longFlag, opcodeField, rowMatch, pcOffset11Field, h.field 0 11, encode, BitVec.extractLsb'_or]
  | ldr r base off | str r base off =>
    simp [opcodeField, rowMatch, regField11, regField8, offset6Field, h.field 9 3, h.field 6 3, h.field 0 6, encode,
      BitVec.extractLsb'_or]
  | not dr sr => simp [opcodeField, rowMatch, regField11, regField8, h.field 9 3, h.field 6 3, encode, BitVec.extractLsb'_or]
  | jmp base => simp [opcodeField, rowMatch, regField8, h.field 6 3, encode, BitVec.extractLsb'_or]
  | reserved8 | reserved13 => simp [opcodeField, rowMatch]
  | trap vec =>
    have hv : definedVector vec = false := by simpa [Instr.WellFormed] using hi
    simp [opcodeField, rowMatch, trapVectField, h.field 0 8, encode, BitVec.extractLsb'_or, decodeTrap_of_undefined hv]
  | getc | out | puts | inp | putsp | halt =>
    simp [opcodeField, rowMatch, trapVectField, h.field 0 8, encode, decodeTrap]

/-! ### The fields of a word, put back at their places -/

section Fields
variable (w b : Word)

@[simp] theorem place_maskField : place (maskField w) 9 = w &&& 0x0E00#16 := place_extractLsb' w 9 3
@[simp] theorem place_regField11 : place (regField11 w).toBits 9 = w &&& 0x0E00#16 := by
  rw [regField11, Reg.toBits_ofBits]; exact place_extractLsb' w 9 3
@[simp] theorem place_regField8 : place (regField8 w).toBits 6 = w &&& 0x01C0#16 := by
  rw [regField8, Reg.toBits_ofBits]; exact place_extractLsb' w 6 3
@[simp] theorem place_regField2 : place (regField2 w).toBits 0 = w &&& 0x0007#16 := by
  rw [regField2, Reg.toBits_ofBits]; exact place_extractLsb' w 0 3
@[simp] theorem place_imm5Field : place (imm5Field w) 0 = w &&& 0x001F#16 := place_extractLsb' w 0 5
@[simp] theorem place_offset6Field : place (offset6Field w) 0 = w &&& 0x003F#16 := place_extractLsb' w 0 6
@[simp] theorem place_pcOffset9Field : place (pcOffset9Field w) 0 = w &&& 0x01FF#16 := place_extractLsb' w 0 9
@[simp] theorem place_pcOffset11Field : place (pcOffset11Field w) 0 = w &&& 0x07FF#16 := place_extractLsb' w 0 11
@[simp] theorem place_trapVectField : place (trapVectField w) 0 = w &&& 0x00FF#16 := place_extractLsb' w 0 8

theorem place_reg8 : b ||| place (regField8 w).toBits 6 = b ||| (w &&& 0x01C0#16) := by rw [place_regField8]

theorem place_offset11 : b ||| place (pcOffset11Field w) 0 = b ||| (w &&& 0x07FF#16) := by rw [place_pcOffset11Field]

theorem place_vector : b ||| place (trapVectField w) 0 = b ||| (w &&& 0x00FF#16) := by rw [place_trapVectField]

theorem place_mask_offset9 : b ||| place (maskField w) 9 ||| place (pcOffset9Field w) 0 = b ||| (w &&& 0x0FFF#16) := by
  simp [BitVec.or_assoc, ← BitVec.and_or_distrib_left]

theorem place_reg_offset9 : b ||| place (regField11 w).toBits 9 ||| place (pcOffset9Field w) 0 = b ||| (w &&& 0x0FFF#16) := by
  simp [BitVec.or_assoc, ← BitVec.and_or_distrib_left]

theorem place_reg_reg : b ||| place (regField11 w).toBits 9 ||| place (regField8 w).toBits 6 = b ||| (w &&& 0x0FC0#16) := by
  simp [BitVec.or_assoc, ← BitVec.and_or_distrib_left]

theorem place_reg_reg_reg :
    b ||| place (regField11 w).toBits 9 ||| place (regField8 w).toBits 6 ||| place (regField2 w).toBits 0 =
      b ||| (w &&& 0x0FC7#16) := by
  simp [BitVec.or_assoc, ← BitVec.and_or_distrib_left]

theorem place_reg_reg_imm5 :
    b ||| place (regField11 w).toBits 9 ||| place (regField8 w).toBits 6 ||| place (imm5Field w) 0 =
      b ||| (w &&& 0x0FDF#16) := by
  simp [BitVec.or_assoc, ← BitVec.and_or_distrib_left]

theorem place_reg_reg_offset6 :
    b ||| place (regField11 w).toBits 9 ||| place (regField8 w).toBits 6 ||| place (offset6Field w) 0 =
      b ||| (w &&& 0x0FFF#16) := by
  simp [BitVec.or_assoc, ← BitVec.and_or_distrib_left]

end Fields

/-! ### Every word carries the instruction it decodes to -/

section Branches
variable {w : Word} {i : Instr} {k v : Nat} {b : Bool}

theorem and_flag_of_getLsbD (h : w.getLsbD k = b) : w &&& place 1#1 k = place (BitVec.ofBool b) k := by
  have hb : w.extractLsb' k 1 = BitVec.ofBool b := by
    refine BitVec.eq_of_getLsbD_eq fun j hj => ?_
    obtain rfl : j = 0 := by omega
    simp [h]
  rw [← hb]
  exact (place_extractLsb' w k 1).symm

theorem and_opcode_of_toNat (h : (opcodeField w).toNat = k) : w &&& 0xF000 = place (BitVec.ofNat 4 k) 12 := by
  rw [← h, BitVec.ofNat_toNat, BitVec.setWidth_eq]
  exact (place_extractLsb' w 12 4).symm

variable (h : (opcodeField w).toNat = k)
include h

theorem row_of_opcode (hmask : rowMask i = 0xF000 := by rfl)
    (hmatch : place (BitVec.ofNat 4 k) 12 = rowMatch i := by simp only [rowMatch]; decide) : w &&& rowMask i = rowMatch i := by
  rw [hmask, and_opcode_of_toNat h, hmatch]

theorem row_of_flag {n : Nat} (hf : w.getLsbD n = b)
    (hmask : rowMask i = 0xF000 ||| place 1#1 n := by simp only [rowMask]; decide)
    (hmatch : place (BitVec.ofNat 4 k) 12 ||| place (BitVec.ofBool b) n = rowMatch i := by simp only [rowMatch]; decide) :
    w &&& rowMask i = rowMatch i := by
  rw [hmask, and_or_eq (and_opcode_of_toNat h) (and_flag_of_getLsbD hf), hmatch]

theorem row_of_vector (hv : (trapVectField w).toNat = v)
    (hmask : rowMask i = 0xF000 ||| 0x00FF := by simp only [rowMask]; decide)
    (hmatch : place (BitVec.ofNat 4 k) 12 ||| place (BitVec.ofNat 8 v) 0 = rowMatch i := by simp only [rowMatch]; decide) :
    w &&& rowMask i = rowMatch i := by
  have hvec : w &&& 0x00FF = place (BitVec.ofNat 8 v) 0 := by
    rw [← hv, BitVec.ofNat_toNat, BitVec.setWidth_eq]
    exact (place_trapVectField w).symm
  rw [hmask, and_or_eq (and_opcode_of_toNat h) hvec, hmatch]

end Branches

theorem carries_decodeTrap {w : Word} (h : (opcodeField w).toNat = 15) : Carries w (decodeTrap (trapVectField w)) := by
  unfold decodeTrap
  split
  case h_7 => exact .of_operands (row_of_opcode h) (place_vector w _)
  all_goals
    rename_i hv
    exact .of_row (row_of_vector h hv)

/-- Each branch of `decode` knows the bits its row fixes and takes the operands from the word itself. -/
theorem carries_decode (w : Word) : Carries w (decode w) := by
  unfold decode
  split
  case h_1 h => exact .of_operands (row_of_opcode h) (place_mask_offset9 w _)
  case h_2 h | h_6 h =>
    split
    case isTrue hf => exact .of_operands (row_of_flag h hf) (place_reg_reg_imm5 w _)
    case isFalse hf => exact .of_operands (row_of_flag h (eq_false_of_ne_true hf)) (place_reg_reg_reg w _)
  case h_5 h =>
    split
    case isTrue hf => exact .of_operands (row_of_flag h hf) (place_offset11 w _)
    case isFalse hf => exact .of_operands (row_of_flag h (eq_false_of_ne_true hf)) (place_reg8 w _)
  case h_3 h | h_4 h | h_11 h | h_12 h | h_15 h => exact .of_operands (row_of_opcode h) (place_reg_offset9 w _)
  case h_7 h | h_8 h => exact .of_operands (row_of_opcode h) (place_reg_reg_offset6 w _)
  case h_9 h | h_14 h => exact .of_row (row_of_opcode h)
  case h_10 h => exact .of_operands (row_of_opcode h) (place_reg_reg w _)
  case h_13 h => exact .of_operands (row_of_opcode h) (place_reg8 w _)
  case h_16 =>
    have hlt := (opcodeField w).isLt
    exact carries_decodeTrap (by simp only [imp_false] at *; omega)

theorem wellFormed_decode (w : Word) : (decode w).WellFormed = true := by
  cases hd : decode w with
  | trap vec => simp [Instr.WellFormed, Machine.decode_trap_undefined hd]
  | _ => rfl

/-! ### The rows do not overlap, but that six refine the TRAP row -/

/-- Opcode 15 is in the TRAP row or in a routine's. -/
theorem decodeTrap_row (vec : BitVec 8) :
    (rowMask (decodeTrap vec) = 0xF000 ∧ rowMatch (decodeTrap vec) = 0xF000) ∨ rowMask (decodeTrap vec) = 0xF0FF := by
  unfold decodeTrap
  split
  case h_7 => exact .inl ⟨rfl, rfl⟩
  all_goals exact .inr rfl

/-- A row that a word matches fixes the opcode and the flag on which `decode` branches, so it is the row of the decoded instruction. -/
theorem row_decode_of_row {w : Word} {i : Instr} (h : w &&& rowMask i = rowMatch i) :
    (rowMask i = rowMask (decode w) ∧ rowMatch i = rowMatch (decode w)) ∨
      (rowMask i = 0xF000 ∧ rowMatch i = 0xF000 ∧ rowMask (decode w) = 0xF0FF) := by
  cases i with
  | getc | out | puts | inp | putsp | halt =>
    rw [(Carries.of_row h).decode_eq rfl]
    exact .inl ⟨rfl, rfl⟩
  | trap vec =>
    have hd : decode w = decodeTrap (trapVectField w) := by
      rw [decode, opcodeField_of_row h]
      simp [opcodeField, rowMatch]
    rw [hd]
    obtain ⟨hmask, hmatch⟩ | hroutine := decodeTrap_row (trapVectField w)
    · exact .inl ⟨hmask.symm, hmatch.symm⟩
    · exact .inr ⟨rfl, rfl, hroutine⟩
  | addReg | addImm | andReg | andImm =>
    rw [decode, opcodeField_of_row h, immFlag_of_row h]
    exact .inl (by simp [opcodeField, immFlag, rowMatch, rowMask])
  | jsr | jsrr =>
    rw [decode, opcodeField_of_row h, longFlag_of_row h]
    exact .inl (by simp [opcodeField, longFlag, rowMatch, rowMask])
  | _ =>
    rw [decode, opcodeField_of_row h]
    exact .inl (by simp [opcodeField, rowMatch, rowMask])

/-! ### The statements -/

/-- Settles O1: the word of an instruction carries it. -/
theorem decodeEncodeRoundTrip : Obligations.DecodeEncodeRoundTrip :=
  fun _ hi => Carries.decode_eq hi rfl

/-- Settles O2. -/
theorem decodedWordEncodesBack : Obligations.DecodedWordEncodesBack :=
  fun w => ⟨wellFormed_decode w, carries_decode w⟩

/-- Settles O3: the second word carries the first one's instruction. -/
theorem ignoredBitsDoNotMatter : Obligations.IgnoredBitsDoNotMatter :=
  fun w _ h => Carries.decode_eq (wellFormed_decode w) ((carries_decode w).trans h)

/-- Settles O4. -/
theorem eachWordMatchesOneRow : Obligations.EachWordMatchesOneRow :=
  fun w => ⟨(carries_decode w).row, fun _ => row_decode_of_row⟩

theorem opcodeField_eq_rowMatch_decode (w : Word) : opcodeField w = opcodeField (rowMatch (decode w)) :=
  opcodeField_of_row (carries_decode w).row

theorem decode_eq_reserved8_iff (w : Word) : decode w = .reserved8 ↔ opcodeField w = 8#4 where
  mp h := by rw [opcodeField_eq_rowMatch_decode, h]; rfl
  mpr h := by rw [decode, h]; rfl

theorem decode_eq_reserved13_iff (w : Word) : decode w = .reserved13 ↔ opcodeField w = 13#4 where
  mp h := by rw [opcodeField_eq_rowMatch_decode, h]; rfl
  mpr h := by rw [decode, h]; rfl

/-- Settles O43: the reserved words are those with opcode 8 or 13, and both arms of `exec` raise the fault. -/
theorem reservedOpcodesFault : Obligations.ReservedOpcodesFault := by
  refine ⟨fun s => ⟨rfl, rfl⟩, fun w => ⟨?_, fun h8 h13 => ⟨?_, ?_⟩⟩⟩
  · rintro (h | h) s
    · rw [(decode_eq_reserved8_iff w).mpr h]; rfl
    · rw [(decode_eq_reserved13_iff w).mpr h]; rfl
  · exact mt (decode_eq_reserved8_iff w).mp h8
  · exact mt (decode_eq_reserved13_iff w).mp h13

/-- Settles O5: thirteen fixed words, decoded. -/
theorem specWordsDecode : Obligations.SpecWordsDecode := by
  unfold Obligations.SpecWordsDecode
  decide

end Sys2Proof
end


section
/-! PROOFS. The fetch-decode-execute cycle (spec/40_fetch_decode_cycle.md R70 to R77) and the arithmetic of the operate instructions. -/

namespace Sys2Proof.Machine

/-! ### One step (R70 to R73) -/

/-- Settles O6: `State.fetch` is the read at `pc` and the advance. -/
theorem stepRunsFetchedInstruction : Obligations.StepRunsFetchedInstruction := by
  intro s hr hp
  simp only [step, hr, hp, State.fetch_eq]

/-- Settles O8: `step` has a case of its own for HALTED. -/
theorem haltedMachineStays : Obligations.HaltedMachineStays := by
  intro s hr
  simp only [step, hr]

/-- Settles O9: no arm of `exec` answers a fault or a refusal, as `step_prependOut` finds arm by arm. -/
theorem everyStepAnswersNext : Obligations.EveryStepAnswersNext := by
  intro s
  obtain ⟨t, ht, -⟩ := step_prependOut s
  exact ⟨t, ht⟩

/-! ### An instruction placed at `pc` (R62, R70) -/

theorem State.cell_withFetchWord_pc {s : State} (w : Word) (h : Memory.wf s.mem = true) :
    (s.withFetchWord 16 w.toNat).cell s.pc = w := by
  rw [State.withFetchWord, Nat.mod_eq_of_lt w.isLt, BitVec.ofNat_toNat, BitVec.setWidth_eq]
  exact State.cell_setCell_self s.pc w h

/-- Settles O7: the fetch is a plain read of the placed word, and that word decodes to the instruction. -/
theorem placedInstructionRuns : Obligations.PlacedInstructionRuns := by
  intro s i hi hm hpc
  have hstep := step_of_plain_fetch (s := s.withFetchWord 16 (encode i).toNat) rfl rfl hpc
  have hcell : (s.withFetchWord 16 (encode i).toNat).cell (s.withFetchWord 16 (encode i).toNat).pc = encode i :=
    State.cell_withFetchWord_pc _ hm
  rwa [hcell, decodeEncodeRoundTrip i hi] at hstep

/-! ### The flags (R15, R76) -/

theorem getLsbD_15_eq_sign (v : Word) : v.getLsbD 15 = decide (v.toInt < 0) :=
  v.msb_eq_getLsbD_last.symm.trans v.msb_eq_toInt

/-- What `setcc` writes, by the sign of the value read as two's complement. -/
theorem setcc_cases (v : Word) :
    (v.toInt < 0 ∧ setcc v = 0b100) ∨ (v.toInt = 0 ∧ setcc v = 0b010) ∨ (0 < v.toInt ∧ setcc v = 0b001) := by
  have hbit := getLsbD_15_eq_sign v
  obtain hneg | hzero | hpos := lt_trichotomy v.toInt 0
  · exact .inl ⟨hneg, setcc_of_bit15 (by simpa [hneg] using hbit)⟩
  · have hv : v = 0x0000 := BitVec.eq_of_toInt_eq hzero
    exact .inr (.inl ⟨hzero, by rw [setcc, if_pos hv]⟩)
  · have hv : v ≠ 0x0000 := by rintro rfl; exact absurd hpos (by decide)
    have hclear : ¬ v.getLsbD 15 = true := by rw [hbit]; simpa using hpos.le
    exact .inr (.inr ⟨hpos, by rw [setcc, if_neg hv, if_neg hclear]⟩)

/-- Settles O10: the three signs exclude each other, and so do the three values of `cond`. -/
theorem setccReportsSign : Obligations.SetccReportsSign := by
  intro s v
  obtain ⟨hneg, hcc⟩ | ⟨hzero, hcc⟩ | ⟨hpos, hcc⟩ := setcc_cases v
  · simp [State.flagN, State.flagZ, State.flagP, oneFlag, hcc, hneg, hneg.ne, hneg.le]
  · simp [State.flagN, State.flagZ, State.flagP, oneFlag, hcc, hzero]
  · simp [State.flagN, State.flagZ, State.flagP, oneFlag, hcc, hpos, hpos.ne', hpos.le]

/-! ### The operate instructions as arithmetic (R77, R80, R82) -/

theorem State.addInto_toNat (s : State) (dr sr1 : Reg) (op2 : Word) :
    ((s.addInto dr sr1 op2).reg dr).toNat = ((s.reg sr1).toNat + op2.toNat) % 65536 := by
  rw [State.addInto, State.reg_writeRegCC_self, BitVec.toNat_add]

/-- Settles O14: both forms of ADD end in `addInto`, and complement is subtraction from 65535. -/
theorem operateResultsWrap : Obligations.OperateResultsWrap := by
  intro s dr sr1 sr2 imm
  refine ⟨⟨_, rfl, s.addInto_toNat dr sr1 _⟩, ⟨_, rfl, s.addInto_toNat dr sr1 _⟩, ⟨_, rfl, ?_⟩⟩
  rw [State.reg_writeRegCC_self, BitVec.toNat_not]

end Sys2Proof.Machine
end

section
/-! PROOFS. The effect and the frame of the operate instructions (spec/41_operate.md R80 to R82). -/

namespace Sys2Proof.Machine

/-! ### The flag-updating register write (R16) -/

/-- The register file and `cond` are the only fields that `writeRegCC` assigns. -/
theorem wroteRegCC_writeRegCC (s : State) (dr : Reg) (v : Word) : WroteRegCC s (s.writeRegCC dr v) dr v :=
  ⟨s.reg_writeRegCC_self dr v, fun _ hr => s.reg_writeRegCC_ne v hr, s.writeRegCC_cond dr v, rfl⟩

/-! ### ADD, AND and NOT (R80, R81, R82) -/

/-- Settles O11: both forms of ADD end in `addInto`, which is the flag-updating write of the sum. -/
theorem addWritesSum : Obligations.AddWritesSum := by
  intro s dr sr1 sr2 imm
  exact ⟨⟨s.addInto dr sr1 (s.reg sr2), rfl, wroteRegCC_writeRegCC ..⟩,
    ⟨s.addInto dr sr1 (sext5 imm), rfl, wroteRegCC_writeRegCC ..⟩⟩

/-- Settles O12: both forms of AND end in `andInto`, which is the flag-updating write of the conjunction. -/
theorem andWritesConjunction : Obligations.AndWritesConjunction := by
  intro s dr sr1 sr2 imm
  exact ⟨⟨s.andInto dr sr1 (s.reg sr2), rfl, wroteRegCC_writeRegCC ..⟩,
    ⟨s.andInto dr sr1 (sext5 imm), rfl, wroteRegCC_writeRegCC ..⟩⟩

/-- Settles O13: NOT is the flag-updating write of the complement. -/
theorem notWritesComplement : Obligations.NotWritesComplement := by
  intro s dr sr
  exact ⟨s.writeRegCC dr (~~~(s.reg sr)), rfl, wroteRegCC_writeRegCC ..⟩

end Sys2Proof.Machine
end

section
/-! PROOFS. The control instructions (spec/42_control.md R90 to R95): when BR is taken, where the jumps go, and what a call links. -/

namespace Sys2Proof.Machine

/-! ### When a branch is taken (R90, R91) -/

/-- A mask and the flags have a common bit exactly when one of the three positions is set in both. -/
theorem mask_and_ne_zero_iff (mask cond : BitVec 3) :
    mask &&& cond ≠ 0 ↔ ((mask.getLsbD 2 && cond.getLsbD 2) || (mask.getLsbD 1 && cond.getLsbD 1) ||
      (mask.getLsbD 0 && cond.getLsbD 0)) = true := by
  have hcommon : mask &&& cond ≠ 0 ↔ ∃ k < 3, (mask.getLsbD k && cond.getLsbD k) = true := by
    simp [BitVec.eq_of_getLsbD_eq_iff]
  rw [hcommon]
  simp only [Nat.exists_lt_succ_right, Nat.not_lt_zero, false_and, exists_false, false_or, Bool.or_eq_true]
  tauto

theorem ne_zero_of_oneFlag {c : BitVec 3} (h : oneFlag c = true) : c ≠ 0 := by
  rintro rfl
  exact absurd h (by decide)

/-- Settles O15: `setPc` and `pcRel9` are the update and the target that R90 writes. -/
theorem branchFollowsMask : Obligations.BranchFollowsMask := fun _ _ _ => rfl

/-- Settles O16: R90's common bit, read position by position; the masks 000 and 111 make it no bit at all and any flag. -/
theorem branchDecisionTable : Obligations.BranchDecisionTable := by
  intro s mask off
  refine ⟨?_, ?_, fun hone => ?_⟩
  · rw [branchFollowsMask, if_congr (mask_and_ne_zero_iff mask s.cond) rfl rfl]
    rfl
  · have hnone : ¬ (0b000 &&& s.cond ≠ 0) := not_not.mpr BitVec.zero_and
    rw [branchFollowsMask, if_neg hnone]
  · have hall : 0b111 &&& s.cond = s.cond := BitVec.allOnes_and
    rw [branchFollowsMask, hall, if_pos (ne_zero_of_oneFlag hone)]

/-! ### Jumps, calls and the return (R92 to R95) -/

/-- After the link write register 7 reads as the advanced `pc`, every other register as before. -/
theorem State.reg_link (s : State) (r : Reg) : s.link.reg r = if r = .r7 then s.pc else s.reg r := by
  split
  · next h => rw [h]; exact s.reg_setReg_self .r7 s.pc
  · next h => exact s.reg_setReg_ne s.pc h

/-- A call is the link write, then the jump: register 7 and `pc` are the only things it writes. -/
theorem called_link_setPc (s : State) (target : Word) : Called s (s.link.setPc target) target :=
  ⟨s.reg_setReg_self .r7 s.pc, fun _ hr => s.reg_setReg_ne s.pc hr, rfl, rfl⟩

/-- Settles O17: `setPc` writes `pc` alone. -/
theorem jumpGoesToRegister : Obligations.JumpGoesToRegister := fun _ _ => rfl

/-- Settles O18: JSR is a call of its PC-relative target. -/
theorem jsrLinksAndJumps : Obligations.JsrLinksAndJumps := fun s off => ⟨_, rfl, called_link_setPc s (s.pcRel11 off)⟩

/-- Settles O19: JSRR is a call of what the base register holds after the link write. -/
theorem jsrrLinksThenJumps : Obligations.JsrrLinksThenJumps := by
  intro s base
  rw [← s.reg_link base]
  exact ⟨_, rfl, called_link_setPc s (s.link.reg base)⟩

/-- Settles O20: the link that JSR leaves in register 7 is where JMP through that register goes. -/
theorem jumpThroughLinkReturns : Obligations.JumpThroughLinkReturns := by
  intro s off
  obtain ⟨t, hexec, hlink, -⟩ := jsrLinksAndJumps s off
  refine ⟨t, hexec, fun u hu => ?_⟩
  rw [jumpGoesToRegister, hu, hlink]

end Sys2Proof.Machine
end

section
/-! PROOFS. The loads, LEA and the stores (spec/43_load_store.md R100 to R107): which reads an instruction makes, what it writes, and its
frame. -/

namespace Sys2Proof.Machine

/-! ### The one effect of a load, and of a store -/

/-- What the three loads share: beyond the read, a flag-updating write of the word read. -/
theorem wroteRegCC_loadInto (s : State) (dr : Reg) (ea : Word) :
    WroteRegCC (s.memRead ea).2 (s.loadInto dr ea) dr (s.memRead ea).1 :=
  wroteRegCC_writeRegCC (s.memRead ea).2 dr (s.memRead ea).1

/-- Away from KBSR_ADDR the read leaves the state, and the load is the flag-updating write of the cell. -/
theorem State.loadInto_of_ne {s : State} {dr : Reg} {ea : Word} (h : ea ≠ s.params.kbsrAddr) :
    s.loadInto dr ea = s.writeRegCC dr (s.cell ea) := by
  rw [State.loadInto, State.memRead_of_ne h]

/-- A store needs the canonical form only for the cell it writes, whose old entry it must replace. -/
theorem wroteCell_memWrite {s : State} (a v : Word) (h : Memory.wf s.mem = true) : WroteCell s (s.memWrite a v) a v :=
  ⟨State.cell_memWrite_self a v h, fun _ hb => s.cell_memWrite_ne v hb, rfl⟩

/-! ### Loads and LEA (R100 to R103) -/

/-- Settles O21: LD and LDR differ in the effective address they load from. -/
theorem loadsWriteReadWord : Obligations.LoadsWriteReadWord := by
  intro s dr base off9 off6
  exact ⟨⟨s.loadInto dr (s.pcRel9 off9), rfl, wroteRegCC_loadInto ..⟩,
    ⟨s.loadInto dr (s.baseOff base off6), rfl, wroteRegCC_loadInto ..⟩⟩

/-- Settles O22: LDI is a load after the pointer read; away from KBSR_ADDR both reads are plain. -/
theorem ldiReadsThroughPointer : Obligations.LdiReadsThroughPointer := by
  intro s dr off
  refine ⟨⟨_, rfl, wroteRegCC_loadInto (s.memRead (s.pcRel9 off)).2 dr (s.memRead (s.pcRel9 off)).1⟩, ?_⟩
  intro (hptr : s.pcRel9 off ≠ s.params.kbsrAddr) (hdata : s.cell (s.pcRel9 off) ≠ s.params.kbsrAddr)
  refine ⟨s.writeRegCC dr (s.cell (s.cell (s.pcRel9 off))), ?_, wroteRegCC_writeRegCC ..⟩
  rw [exec_ldi_of_ne hptr, State.loadInto_of_ne hdata]

/-- Settles O23: LEA is the flag-updating write of its effective address. -/
theorem leaWritesAddress : Obligations.LeaWritesAddress := by
  intro s dr off
  exact ⟨s.writeRegCC dr (s.pcRel9 off), rfl, wroteRegCC_writeRegCC ..⟩

/-! ### Stores (R104 to R106) -/

/-- Settles O24: ST and STR differ in the effective address they write to. -/
theorem storesWriteOneCell : Obligations.StoresWriteOneCell := by
  intro s sr base off9 off6 hmem
  exact ⟨⟨s.memWrite (s.pcRel9 off9) (s.reg sr), rfl, wroteCell_memWrite _ _ hmem⟩,
    ⟨s.memWrite (s.baseOff base off6) (s.reg sr), rfl, wroteCell_memWrite _ _ hmem⟩⟩

/-- Settles O25: the pointer read keeps the canonical form and every register, so what follows is a plain store of SR. -/
theorem stiStoresThroughPointer : Obligations.StiStoresThroughPointer := by
  intro s sr off hmem
  refine ⟨(s.memRead (s.pcRel9 off)).2.memWrite (s.memRead (s.pcRel9 off)).1 (s.reg sr), ?_,
    wroteCell_memWrite _ _ (State.memRead_wf _ hmem)⟩
  rw [exec, execSti, State.memRead_reg]

end Sys2Proof.Machine
end

section
/-! PROOFS. TRAP (spec/44_trap.md R110 to R119): the link write every routine is entered with, the routines that end in one step, and the
wait of GETC and IN. -/

namespace Sys2Proof.Machine

/-! ### The registers after the link write (R110) -/

/-- A routine that writes no register leaves the link in register 7 and every other register as before. -/
theorem reg_of_linked {s t : State} (h : t.regs = s.link.regs) : t.reg .r7 = s.pc ∧ ∀ r, r ≠ .r7 → t.reg r = s.reg r := by
  have hreg (r : Reg) : t.reg r = if r = .r7 then s.pc else s.reg r := (State.reg_congr h r).trans (s.reg_link r)
  exact ⟨hreg .r7, fun r hr => (hreg r).trans (if_neg hr)⟩

/-- A routine that writes register 0 leaves the link in register 7 and every other register as before. -/
theorem reg_of_linked_r0 {s t : State} {v : Word} (h : t.regs = (s.link.setReg .r0 v).regs) :
    t.reg .r7 = s.pc ∧ t.reg .r0 = v ∧ ∀ r, r ≠ .r0 → r ≠ .r7 → t.reg r = s.reg r := by
  have hlink (r : Reg) (h0 : r ≠ .r0) : t.reg r = s.link.reg r :=
    (State.reg_congr h r).trans (s.link.reg_setReg_ne v h0)
  obtain ⟨h7, hr⟩ := reg_of_linked (s := s) (t := s.link) rfl
  exact ⟨(hlink .r7 nofun).trans h7, (State.reg_congr h .r0).trans (s.link.reg_setReg_self .r0 v),
    fun r h0 h7 => (hlink r h0).trans (hr r h7)⟩

/-! ### The dispatch (R110, R111, R118) -/

/-- Settles O30: the dispatch matches each of the six vectors before the unknown ones. -/
theorem trapSelectsRoutine : Obligations.TrapSelectsRoutine := fun _ => ⟨rfl, rfl, rfl, rfl, rfl, rfl⟩

theorem State.trapDispatch_of_undefined (s : State) {vec : BitVec 8} (hd : definedVector vec = false) :
    s.trapDispatch vec = s.unknownVector := by
  obtain ⟨rfl, -⟩ | ⟨rfl, -⟩ | ⟨rfl, -⟩ | ⟨rfl, -⟩ | ⟨rfl, -⟩ | ⟨rfl, -⟩ | ⟨-, h⟩ := s.trapDispatch_cases vec
  on_goal 7 => exact h
  all_goals exact absurd hd (by decide)

/-- Settles O42: the dispatch of an undefined vector is `unknownVector`, which follows the policy and writes no register. -/
theorem unknownTrapFollowsPolicy : Obligations.UnknownTrapFollowsPolicy := by
  intro s vec hd
  have hexec : exec (.trap vec) s = .next s.link.unknownVector :=
    congrArg Host.Outcome.next (s.link.trapDispatch_of_undefined hd)
  cases hp : s.params.unknownTrapPolicy with
  | fault =>
    have hu : s.link.unknownVector = s.link.raise .unknownTrap := by simp only [State.unknownVector, State.link_params, hp]
    obtain ⟨h7, hr⟩ := reg_of_linked (s := s) (t := s.link.raise .unknownTrap) rfl
    exact ⟨_, hexec.trans (congrArg _ hu), h7, hr, fun _ => rfl, nofun⟩
  | noop =>
    have hu : s.link.unknownVector = s.link := by simp only [State.unknownVector, State.link_params, hp]
    obtain ⟨h7, hr⟩ := reg_of_linked (s := s) (t := s.link) rfl
    exact ⟨_, hexec.trans (congrArg _ hu), h7, hr, nofun, fun _ => rfl⟩

/-! ### OUT and HALT (R113, R117) -/

theorem lowByte_eq_setWidth (w : Word) : lowByte w = w.setWidth 8 := (BitVec.setWidth_eq_extractLsb' (by decide)).symm

/-- Settles O35: the link write leaves register 0, whose low byte is emitted in a batch of its own. -/
theorem outEmitsLowByte : Obligations.OutEmitsLowByte := by
  intro s
  obtain ⟨h7, hr⟩ := reg_of_linked (s := s) (t := s.link.outRoutine) rfl
  refine ⟨s.link.outRoutine, rfl, h7, hr, ?_⟩
  rw [← lowByte_eq_setWidth]
  rfl

/-- Settles O41: the notice is emitted after the link write, and nothing else but `run` is written. -/
theorem haltEndsTheRun : Obligations.HaltEndsTheRun := by
  intro s
  have ht := s.link.haltRoutine_eq
  obtain ⟨h7, hr⟩ := reg_of_linked (s := s) (t := s.link.haltRoutine) (by rw [ht])
  exact ⟨s.link.haltRoutine, rfl, h7, hr, by rw [ht]; rfl⟩

/-! ### GETC and IN with a character pending, and without one (R112, R115, R119) -/

theorem State.kbdTake_of_cons {s : State} {c : Byte} {q : List Byte} (hq : s.kbdQ ++ s.arrivals.headD [] = c :: q) :
    s.kbdTake = (some c, { s with kbdQ := q, arrivals := s.arrivals.tail }) := by
  rw [← s.deliver_kbdQ] at hq
  obtain ⟨hn, -⟩ | ⟨c', q', hc, h⟩ := s.kbdTake_cases
  · rw [hn] at hq; cases hq
  · obtain ⟨rfl, rfl⟩ := List.cons.inj (hc.symm.trans hq)
    rw [h, s.deliver_eq, s.deliver_arrivals]

theorem State.kbdTake_of_nil {s : State} (hq : s.kbdQ ++ s.arrivals.headD [] = []) :
    s.kbdTake = (none, { s with kbdQ := [], arrivals := s.arrivals.tail }) := by
  rw [← s.deliver_kbdQ] at hq
  obtain ⟨-, h⟩ | ⟨c, q, hc, -⟩ := s.kbdTake_cases
  · rw [h, s.deliver_eq, s.deliver_arrivals, hq]
  · rw [hc] at hq; cases hq

theorem State.getcRead_of_cons {s : State} {c : Byte} {q : List Byte} (hq : s.kbdQ ++ s.arrivals.headD [] = c :: q) :
    s.getcRead = (({ s with kbdQ := q, arrivals := s.arrivals.tail } : State).writeRegCC .r0 (zext8 c)).finish := by
  rw [State.getcRead, State.kbdGetc, State.kbdTake_of_cons hq]

theorem State.getcRead_of_nil {s : State} (hq : s.kbdQ ++ s.arrivals.headD [] = []) :
    s.getcRead = ({ s with kbdQ := [], arrivals := s.arrivals.tail } : State).suspend .getc := by
  rw [State.getcRead, State.kbdGetc, State.kbdTake_of_nil hq]

theorem State.inpRead_of_cons {s : State} {c : Byte} {q : List Byte} (hq : s.kbdQ ++ s.arrivals.headD [] = c :: q) :
    s.inpRead = (((({ s with kbdQ := q, arrivals := s.arrivals.tail } : State).outEmit c).writeRegCC .r0 (zext8 c)).outEmit
      s.params.newline).outFlush.finish := by
  rw [State.inpRead, State.kbdGetc, State.kbdTake_of_cons hq]

theorem State.inpRead_of_nil {s : State} (hq : s.kbdQ ++ s.arrivals.headD [] = []) :
    s.inpRead = ({ s with kbdQ := [], arrivals := s.arrivals.tail } : State).suspend .inp := by
  rw [State.inpRead, State.kbdGetc, State.kbdTake_of_nil hq]

/-- IN from its start, with a character pending. -/
theorem State.inpRoutine_of_cons {s : State} {c : Byte} {q : List Byte} (hq : s.kbdQ ++ s.arrivals.headD [] = c :: q) :
    s.inpRoutine =
      { s with regs := Regs.set s.regs .r0 (zext8 c), cond := setcc (zext8 c), kbdQ := q, arrivals := s.arrivals.tail,
               out := s.out ++ s.params.inPrompt ++ [c, s.params.newline], unflushed := 0, pending := none } := by
  have hp := s.inpPrompt_eq
  rw [State.inpRoutine, State.inpRead_of_cons (by rw [hp]; exact hq), hp, List.append_cons]
  rfl

/-- IN from its start, with no character pending. -/
theorem State.inpRoutine_of_nil {s : State} (hq : s.kbdQ ++ s.arrivals.headD [] = []) :
    s.inpRoutine = { s with kbdQ := [], arrivals := s.arrivals.tail, out := s.out ++ s.params.inPrompt, unflushed := 0,
                            pending := some .inp } := by
  have hp := s.inpPrompt_eq
  rw [State.inpRoutine, State.inpRead_of_nil (by rw [hp]; exact hq), hp]
  rfl

/-- Settles O31: the link write leaves the input, and the character goes to register 0 and the flags. -/
theorem getcReadsCharacter : Obligations.GetcReadsCharacter := by
  intro s c q hq
  have ht := State.getcRead_of_cons (s := s.link) hq
  obtain ⟨h7, h0, hr⟩ := reg_of_linked_r0 (s := s) (t := s.link.getcRead) (v := zext8 c) (by rw [ht]; rfl)
  exact ⟨s.link.getcRead, rfl, h7, h0, hr, by rw [ht]; rfl, by rw [ht]; rfl⟩

/-- Settles O32: as O31, with the echo between the prompt and the newline. -/
theorem inPromptsAndEchoes : Obligations.InPromptsAndEchoes := by
  intro s c q hq
  have ht := State.inpRoutine_of_cons (s := s.link) hq
  obtain ⟨h7, h0, hr⟩ := reg_of_linked_r0 (s := s) (t := s.link.inpRoutine) (v := zext8 c) (by rw [ht]; rfl)
  exact ⟨s.link.inpRoutine, rfl, h7, h0, hr, by rw [ht]; rfl, by rw [ht]; rfl, by rw [ht]; rfl⟩

/-- Settles O33: what is done before the `KbdGetc` line stands when the wait begins. -/
theorem getcAndInWait : Obligations.GetcAndInWait := by
  intro s hq
  have hnil : s.kbdQ = [] := (List.append_eq_nil_iff.mp hq).1
  constructor
  · have ht := State.getcRead_of_nil (s := s.link) hq
    obtain ⟨h7, hr⟩ := reg_of_linked (s := s) (t := s.link.getcRead) (by rw [ht]; rfl)
    exact ⟨s.link.getcRead, rfl, h7, hr, by rw [ht, hnil]; rfl⟩
  · have ht := State.inpRoutine_of_nil (s := s.link) hq
    obtain ⟨h7, hr⟩ := reg_of_linked (s := s) (t := s.link.inpRoutine) (by rw [ht])
    exact ⟨s.link.inpRoutine, rfl, h7, hr, by rw [ht, hnil]; rfl⟩

/-! ### The end of a wait (R119) -/

theorem step_of_pending {s : State} {p : Routine} (hr : s.run = .running) (hp : s.pending = some p) :
    step s = .next (s.resume p) := by
  simp only [step, hr, hp]

/-- At its `KbdGetc` line a routine without input does nothing but wait. -/
theorem State.resume_of_no_input {s : State} {p : Routine} (hp : p.asks = true) (hq : s.kbdQ = []) (ha : s.arrivals = []) :
    s.resume p = s.suspend p := by
  have hd : s.deliver = s := by simp only [State.deliver, ha]
  have hnil : s.deliver.kbdQ = [] := by rw [hd, hq]
  cases p with
  | getc =>
    obtain ⟨-, h⟩ | ⟨c, q, hc, -⟩ := s.getcRead_cases
    · rw [State.resume, h, hd]
    · rw [hnil] at hc; cases hc
  | inp =>
    obtain ⟨-, h⟩ | ⟨c, q, hc, -⟩ := s.inpRead_cases
    · rw [State.resume, h, hd]
    · rw [hnil] at hc; cases hc
  | puts | putsp => cases hp

/-- With a character pending it makes no difference whether the routine has waited: its end clears `pending`. -/
theorem State.resume_suspend_of_cons {s : State} {p : Routine} {c : Byte} {q : List Byte} (hp : p.asks = true)
    (hq : s.kbdQ ++ s.arrivals.headD [] = c :: q) : (s.suspend p).resume p = s.resume p := by
  cases p with
  | getc => exact (State.getcRead_of_cons (s := s.suspend .getc) hq).trans (State.getcRead_of_cons hq).symm
  | inp => exact (State.inpRead_of_cons (s := s.suspend .inp) hq).trans (State.inpRead_of_cons hq).symm
  | puts | putsp => cases hp

/-- A routine that waits goes on waiting, and once a character has come it ends as from its `KbdGetc` line. -/
theorem step_of_waiting {s : State} {p : Routine} (hp : p.asks = true) (hr : s.run = .running) (hq : s.kbdQ = [])
    (ha : s.arrivals = []) (c : Byte) (q : List Byte) :
    step (s.suspend p) = .next (s.suspend p) ∧
    step ((s.suspend p).hostAppend (c :: q)) = .next ((s.hostAppend (c :: q)).resume p) := by
  have hcons : (s.hostAppend (c :: q)).kbdQ ++ (s.hostAppend (c :: q)).arrivals.headD [] = c :: q := by simp [hq, ha]
  constructor
  · have hstay : (s.suspend p).resume p = s.suspend p := State.resume_of_no_input hp hq ha
    rw [step_of_pending (s := s.suspend p) hr rfl, hstay]
  · have hend : ((s.suspend p).hostAppend (c :: q)).resume p = (s.hostAppend (c :: q)).resume p :=
      State.resume_suspend_of_cons hp hcons
    rw [step_of_pending (s := (s.suspend p).hostAppend (c :: q)) hr rfl, hend]

/-- Settles O34: GETC waits where its link write leaves it, IN where its prompt does, and neither state depends on the input. -/
theorem waitEndsWhenCharacterComes : Obligations.WaitEndsWhenCharacterComes := by
  rintro s c q i (rfl | rfl) hr hq ha
  · have hwait : exec .getc s = .next (s.link.suspend .getc) :=
      congrArg Host.Outcome.next (State.resume_of_no_input (s := s.link) (p := .getc) rfl hq ha)
    obtain ⟨hstay, hend⟩ := step_of_waiting (s := s.link) (p := .getc) rfl hr hq ha c q
    exact ⟨_, hwait, hstay, hend⟩
  · have hu := s.link.inpPrompt_eq
    have hqu : s.link.inpPrompt.kbdQ = [] := by rw [hu]; exact hq
    have hau : s.link.inpPrompt.arrivals = [] := by rw [hu]; exact ha
    have hwait : exec .inp s = .next (s.link.inpPrompt.suspend .inp) :=
      congrArg Host.Outcome.next (State.resume_of_no_input (p := .inp) rfl hqu hau)
    have hprompt : s.link.inpPrompt.hostAppend (c :: q) = (s.hostAppend (c :: q)).link.inpPrompt := by
      rw [hu, State.inpPrompt_eq]; rfl
    obtain ⟨hstay, hend⟩ := step_of_waiting (p := .inp) rfl (by rw [hu]; exact hr) hqu hau c q
    rw [hprompt] at hend
    exact ⟨_, hwait, hstay, hend⟩

end Sys2Proof.Machine
end

section
/-! PROOFS. PUTS and PUTSP (spec/44_trap.md R114, R116): the model's loops end as the loops of the pseudocode do. Each fact
is proved once, over the loop that the two share. -/

namespace Sys2Proof.Machine

/-! ### Emitting bytes -/

@[simp] theorem State.outEmitAll_params (s : State) (bs : List Byte) : (s.outEmitAll bs).params = s.params := by
  rw [s.outEmitAll_eq]

@[simp] theorem State.outEmitAll_cell (s : State) (bs : List Byte) (a : Word) : (s.outEmitAll bs).cell a = s.cell a := by
  rw [s.outEmitAll_eq]; rfl

theorem State.outEmitAll_append (s : State) (bs cs : List Byte) :
    s.outEmitAll (bs ++ cs) = (s.outEmitAll bs).outEmitAll cs := by
  simp [State.outEmitAll_eq, Nat.add_assoc]

theorem State.outEmitAll_suspend (s : State) (p : Routine) (bs : List Byte) :
    (s.suspend p).outEmitAll bs = (s.outEmitAll bs).suspend p := by
  rw [State.outEmitAll_eq, State.outEmitAll_eq]; rfl

/-! ### Reads do not depend on the routine in progress -/

theorem State.kbsrProbe_suspend (s : State) (p : Routine) : (s.suspend p).kbsrProbe = s.kbsrProbe.suspend p := by
  cases hq : s.kbdQ ++ s.arrivals.headD [] with
  | nil => rw [State.kbsrProbe_of_nil (s := s.suspend p) hq, State.kbsrProbe_of_nil hq]; rfl
  | cons c q => rw [State.kbsrProbe_of_cons (s := s.suspend p) hq, State.kbsrProbe_of_cons hq]; rfl

theorem State.memRead_suspend (s : State) (p : Routine) (a : Word) :
    (s.suspend p).memRead a = ((s.memRead a).1, (s.memRead a).2.suspend p) := by
  obtain ⟨ha, h⟩ | ⟨rfl, h⟩ := s.memRead_cases a
  · rw [h, State.memRead_of_ne (s := s.suspend p) ha]; rfl
  · rw [h, ← State.suspend_params s p, State.memRead_kbsr, State.kbsrProbe_suspend]; rfl

/-! ### The loop that PUTS and PUTSP share -/

/-- A pass over all of memory comes back to where it began (D18). -/
theorem addr_add_stringPass (a : Word) : a + BitVec.ofNat 16 stringPass = a := BitVec.add_zero a

/-- What tells the two string routines apart. -/
structure StringLoop where
  /-- the words that end the string -/
  ends : Word → Bool
  /-- the bytes of a word after which the loop goes on -/
  bytes : Word → List Byte
  /-- the bytes of the word that ends the string -/
  lastBytes : Word → List Byte
  /-- the routine in progress at the head of the loop -/
  suspended : Word → Routine

namespace StringLoop
variable (L : StringLoop) {s u : State} {a : Word} {k n : Nat}

/-- One turn of the loop that goes on. -/
def turn (a : Word) (s : State) : State := (s.memRead a).2.outEmitAll (L.bytes (s.memRead a).1)

/-- The turn that ends the string. -/
def lastTurn (a : Word) (s : State) : State := (s.memRead a).2.outEmitAll (L.lastBytes (s.memRead a).1)

/-- The routine with address counter `a`, for at most `n` words. -/
def run : Nat → Word → State → State
  | 0, a, s => s.suspend (L.suspended a)
  | n + 1, a, s => if L.ends (s.memRead a).1 then (L.lastTurn a s).outFlush.finish else run n (a + 1) (L.turn a s)

/-- The loop of the pseudocode reads `n + 1` cells and is left in state `t`. -/
def EndsAfter : Nat → Word → State → State → Prop
  | 0, a, s, t => L.ends (s.memRead a).1 = true ∧ t = L.lastTurn a s
  | n + 1, a, s, t => L.ends (s.memRead a).1 = false ∧ EndsAfter n (a + 1) (L.turn a s) t

variable {L}

theorem run_succ_of_ends (h : L.ends (s.memRead a).1 = true) : L.run (n + 1) a s = (L.lastTurn a s).outFlush.finish :=
  if_pos h

theorem run_succ_of_not_ends (h : L.ends (s.memRead a).1 = false) : L.run (n + 1) a s = L.run n (a + 1) (L.turn a s) := by
  rw [run, h]; rfl

/-- A loop that ends within `n` reads ends the routine. -/
theorem EndsAfter.run_eq (h : L.EndsAfter k a s u) (hk : k < n) : L.run n a s = u.outFlush.finish := by
  induction k generalizing n a s with
  | zero =>
    obtain ⟨m, rfl⟩ := Nat.exists_eq_add_of_lt hk
    obtain ⟨he, rfl⟩ := h
    exact run_succ_of_ends he
  | succ k ih =>
    obtain ⟨m, rfl⟩ := Nat.exists_eq_add_of_lt hk
    obtain ⟨he, hrest⟩ := h
    rw [run_succ_of_not_ends he]
    exact ih hrest (by omega)

/-- A loop that needs `n` reads and more is suspended after `n`, and ends from there. -/
theorem EndsAfter.run_suspends (h : L.EndsAfter (n + k) a s u) :
    ∃ v, L.run n a s = v.suspend (L.suspended (a + BitVec.ofNat 16 n)) ∧ L.EndsAfter k (a + BitVec.ofNat 16 n) v u := by
  induction n generalizing a s with
  | zero => exact ⟨s, by simp [StringLoop.run], by simpa using h⟩
  | succ n ih =>
    rw [Nat.succ_add] at h
    obtain ⟨he, hrest⟩ := h
    rw [run_succ_of_not_ends he, ← addr_succ]
    exact ih hrest

/-- A loop that does not end within `n` reads is suspended after `n`. -/
theorem run_pending_of_not (h : ∀ k u, k < n → ¬ L.EndsAfter k a s u) :
    (L.run n a s).pending = some (L.suspended (a + BitVec.ofNat 16 n)) := by
  induction n generalizing a s with
  | zero => simp [StringLoop.run]
  | succ n ih =>
    have he : L.ends (s.memRead a).1 = false := Bool.eq_false_iff.mpr fun he => h 0 _ n.succ_pos ⟨he, rfl⟩
    rw [run_succ_of_not_ends he, ← addr_succ]
    exact ih fun k u hk hrest => h (k + 1) u (Nat.succ_lt_succ hk) ⟨he, hrest⟩

/-- What one pass of the routine answers, by whether the loop ends within it. -/
theorem run_stringPass (L : StringLoop) (a : Word) (s : State) :
    (∀ n u, n < 65536 → L.EndsAfter n a s u → L.run stringPass a s = { u with unflushed := 0, pending := none }) ∧
    ((∀ n u, n < 65536 → ¬ L.EndsAfter n a s u) → (L.run stringPass a s).pending = some (L.suspended a)) := by
  refine ⟨fun n u hn h => h.run_eq hn, fun h => ?_⟩
  have hp := run_pending_of_not (n := stringPass) h
  rwa [addr_add_stringPass] at hp

/-! ### A string away from KBSR_ADDR -/

/-- Over words that stand in memory away from KBSR_ADDR the loop emits their bytes and changes nothing else. -/
theorem endsAfter_of_cells {ws : List Word} {last : Word} (hws : ∀ w ∈ ws, L.ends w = false) (hlast : L.ends last = true)
    (hne : ∀ k ≤ ws.length, a + BitVec.ofNat 16 k ≠ s.params.kbsrAddr)
    (hcell : ∀ k (h : k < ws.length), s.cell (a + BitVec.ofNat 16 k) = ws[k])
    (hend : s.cell (a + BitVec.ofNat 16 ws.length) = last) :
    L.EndsAfter ws.length a s (s.outEmitAll (ws.flatMap L.bytes ++ L.lastBytes last)) := by
  induction ws generalizing a s with
  | nil =>
    have ha : a ≠ s.params.kbsrAddr := by simpa using hne 0 le_rfl
    have hread : s.memRead a = (last, s) := by rw [State.memRead_of_ne ha, ← hend]; simp
    exact ⟨by rw [hread]; exact hlast, by rw [lastTurn, hread]; rfl⟩
  | cons w ws ih =>
    have ha : a ≠ s.params.kbsrAddr := by simpa using hne 0 (Nat.zero_le _)
    have hw : s.cell a = w := by simpa using hcell 0 ws.length.succ_pos
    have hread : s.memRead a = (w, s) := by rw [State.memRead_of_ne ha, hw]
    have hturn : L.turn a s = s.outEmitAll (L.bytes w) := by rw [turn, hread]
    refine ⟨by rw [hread]; exact hws w List.mem_cons_self, ?_⟩
    rw [List.flatMap_cons, List.append_assoc, State.outEmitAll_append, ← hturn]
    refine ih (fun v hv => hws v (List.mem_cons_of_mem w hv)) (fun k hk => ?_) (fun k hk => ?_) ?_
    · rw [addr_succ, hturn, State.outEmitAll_params]
      exact hne (k + 1) (Nat.succ_le_succ hk)
    · rw [addr_succ, hturn, State.outEmitAll_cell]
      exact hcell (k + 1) (Nat.succ_lt_succ hk)
    · rw [addr_succ, hturn, State.outEmitAll_cell]
      exact hend

/-- What one pass of the routine answers over such a string. -/
theorem run_stringPass_of_cells {ws : List Word} {last : Word} (hlen : ws.length < 65536)
    (hws : ∀ w ∈ ws, L.ends w = false) (hlast : L.ends last = true)
    (hne : ∀ k ≤ ws.length, a + BitVec.ofNat 16 k ≠ s.params.kbsrAddr)
    (hcell : ∀ k (h : k < ws.length), s.cell (a + BitVec.ofNat 16 k) = ws[k])
    (hend : s.cell (a + BitVec.ofNat 16 ws.length) = last) :
    L.run stringPass a s =
      { s with out := s.out ++ (ws.flatMap L.bytes ++ L.lastBytes last), unflushed := 0, pending := none } := by
  rw [(L.run_stringPass a s).1 _ _ hlen (endsAfter_of_cells hws hlast hne hcell hend), State.outEmitAll_eq]

/-- The loop does not depend on the routine in progress. -/
theorem EndsAfter.suspend (h : L.EndsAfter n a s u) (p : Routine) : L.EndsAfter n a (s.suspend p) (u.suspend p) := by
  induction n generalizing a s with
  | zero =>
    obtain ⟨he, rfl⟩ := h
    exact ⟨by rw [State.memRead_suspend]; exact he, by rw [lastTurn, lastTurn, State.memRead_suspend, State.outEmitAll_suspend]⟩
  | succ n ih =>
    obtain ⟨he, hrest⟩ := h
    refine ⟨by rw [State.memRead_suspend]; exact he, ?_⟩
    rw [turn, State.memRead_suspend, State.outEmitAll_suspend]
    exact ih hrest

end StringLoop

/-! ### PUTS (R114) -/

/-- The loop of R114. -/
def putsStrings : StringLoop where
  ends := endsPuts
  bytes w := [lowByte w]
  lastBytes _ := []
  suspended := .puts

theorem State.putsLoop_eq (n : Nat) : ∀ (a : Word) (s : State), State.putsLoop n a s = putsStrings.run n a s := by
  induction n with
  | zero => exact fun _ _ => rfl
  | succ n ih =>
    intro a s
    by_cases hw : (s.memRead a).1 = 0x0000
    · rw [StringLoop.run_succ_of_ends (beq_iff_eq.mpr hw), State.putsLoop, if_pos hw]; rfl
    · rw [StringLoop.run_succ_of_not_ends (beq_eq_false_iff_ne.mpr hw), State.putsLoop, if_neg hw, ih]; rfl

theorem putsLoopEnds_iff {n : Nat} {a : Word} {s t : State} : PutsLoopEnds n a s t ↔ putsStrings.EndsAfter n a s t := by
  constructor
  · intro h
    induction h with
    | stop a s t hread =>
      exact ⟨by rw [hread]; rfl, by rw [StringLoop.lastTurn, hread]; rfl⟩
    | emit n a w s u t hread hw _ ih =>
      exact ⟨by rw [hread]; exact beq_eq_false_iff_ne.mpr hw, by rw [StringLoop.turn, hread]; exact ih⟩
  · intro h
    induction n generalizing a s with
    | zero =>
      obtain ⟨he, rfl⟩ := h
      exact .stop a s _ (Prod.ext (beq_iff_eq.mp he) rfl)
    | succ n ih =>
      obtain ⟨he, hrest⟩ := h
      exact .emit n a _ s _ t rfl (beq_eq_false_iff_ne.mp he) (ih hrest)

/-- PUTS is a pass of the shared loop from the address in register 0, which the link write leaves. -/
theorem exec_puts (s : State) : exec .puts s = .next (putsStrings.run stringPass (s.reg .r0) s.link) :=
  congrArg Host.Outcome.next (State.putsLoop_eq stringPass (s.reg .r0) s.link)

/-- Settles O38: the loop of the model is the loop of R114, and a pass either holds all of it or comes back to its address. -/
theorem putsFollowsItsLoop : Obligations.PutsFollowsItsLoop := by
  intro s
  obtain ⟨hends, hwaits⟩ := putsStrings.run_stringPass (s.reg .r0) s.link
  simp only [putsLoopEnds_iff, exec_puts]
  exact ⟨fun n u hn h => congrArg _ (hends n u hn h), fun h => ⟨_, rfl, hwaits h⟩⟩

/-- Settles O36: the words go on, the zero word ends the string without a byte of its own, and no read runs the probe. -/
theorem putsEmitsString : Obligations.PutsEmitsString := by
  intro s ws hlen hws hne hcell hend
  have ht := StringLoop.run_stringPass_of_cells (L := putsStrings) (s := s.link) hlen
    (fun w hw => beq_eq_false_iff_ne.mpr (hws w hw)) rfl hne hcell hend
  have hbytes : ws.flatMap putsStrings.bytes ++ putsStrings.lastBytes 0 = ws.map (fun w => w.setWidth 8) := by
    simp only [← lowByte_eq_setWidth, List.map_eq_flatMap]
    exact List.append_nil _
  rw [hbytes] at ht
  obtain ⟨h7, hr⟩ := reg_of_linked (s := s) (t := putsStrings.run stringPass (s.reg .r0) s.link) (by rw [ht])
  exact ⟨_, exec_puts s, h7, hr, by rw [ht]; rfl⟩

/-! ### A string that goes round memory (R114) -/

theorem core_run_succ {s t : State} (h : step s = .next t) (k : Nat) : Sys2Proof.core.run (k + 1) s = Sys2Proof.core.run k t := by
  have hs : Sys2Proof.core.step s = .next t := h
  simp only [Host.Core.run, hs]

/-- A loop of `n + 1` reads takes `n / 65536` steps beyond its first pass: each pass that does not end it goes on in the next step. -/
theorem core_run_puts {n : Nat} {a : Word} {s u : State} (hr : s.run = .running) (h : putsStrings.EndsAfter n a s u) :
    Sys2Proof.core.run (n / 65536) (putsStrings.run stringPass a s) =
      .next ({ u with unflushed := 0, pending := none } : State) := by
  induction n using Nat.strong_induction_on generalizing s u with
  | _ n ih =>
    by_cases hn : n < 65536
    · rw [Nat.div_eq_of_lt hn, (putsStrings.run_stringPass a s).1 n u hn h]
      rfl
    · obtain ⟨k, rfl⟩ : ∃ k, n = stringPass + k := Nat.exists_eq_add_of_le (Nat.le_of_not_lt hn)
      obtain ⟨v, hv, hrest⟩ := h.run_suspends
      rw [addr_add_stringPass] at hv hrest
      have hvr : v.run = .running := by
        have hrun := (State.putsLoop_routine stringPass a s).run
        rw [State.putsLoop_eq, hv] at hrun
        exact hrun.trans hr
      have hstep : step (v.suspend (.puts a)) = .next (putsStrings.run stringPass a (v.suspend (.puts a))) :=
        (step_of_pending (s := v.suspend (.puts a)) hvr rfl).trans (congrArg _ (State.putsLoop_eq _ _ _))
      have hdiv : (stringPass + k) / 65536 = k / 65536 + 1 := Nat.add_div_left k (by decide)
      rw [hv, hdiv]
      have hlater := ih k (by simp [stringPass]) (s := v.suspend (.puts a)) hvr (hrest.suspend (.puts a))
      exact (core_run_succ hstep _).trans hlater

/-- Settles O40: the link write leaves the machine running, and each further pass is one step. -/
theorem putsEndsAfterItsPasses : Obligations.PutsEndsAfterItsPasses := by
  intro s u n hr h
  exact ⟨_, exec_puts s, core_run_puts (s := s.link) hr (putsLoopEnds_iff.mp h)⟩

/-! ### PUTSP (R116) -/

/-- The loop of R116. -/
def putspStrings : StringLoop where
  ends := endsPutsp
  bytes w := [lowByte w, highByte w]
  lastBytes w := if lowByte w = 0 then [] else [lowByte w]
  suspended := .putsp

theorem endsPutsp_eq_true_iff {w : Word} : endsPutsp w = true ↔ lowByte w = 0x00 ∨ highByte w = 0x00 := by
  simp [endsPutsp]

theorem endsPutsp_eq_false_iff {w : Word} : endsPutsp w = false ↔ lowByte w ≠ 0x00 ∧ highByte w ≠ 0x00 := by
  simp [endsPutsp]

theorem putspStrings_lastTurn_low {a : Word} {s : State} (hl : lowByte (s.memRead a).1 = 0x00) :
    putspStrings.lastTurn a s = (s.memRead a).2 :=
  congrArg _ (if_pos hl)

theorem putspStrings_lastTurn_high {a : Word} {s : State} (hl : lowByte (s.memRead a).1 ≠ 0x00) :
    putspStrings.lastTurn a s = (s.memRead a).2.outEmit (lowByte (s.memRead a).1) :=
  congrArg _ (if_neg hl)

theorem State.putspLoop_eq (n : Nat) : ∀ (a : Word) (s : State), State.putspLoop n a s = putspStrings.run n a s := by
  induction n with
  | zero => exact fun _ _ => rfl
  | succ n ih =>
    intro a s
    rw [State.putspLoop]
    split
    · next hl =>
      rw [StringLoop.run_succ_of_ends (endsPutsp_eq_true_iff.mpr (.inl hl)), putspStrings_lastTurn_low hl]
    · next hl =>
      split
      · next hh =>
        rw [StringLoop.run_succ_of_ends (endsPutsp_eq_true_iff.mpr (.inr hh)), putspStrings_lastTurn_high hl]
      · next hh =>
        rw [StringLoop.run_succ_of_not_ends (endsPutsp_eq_false_iff.mpr ⟨hl, hh⟩), ih]; rfl

theorem putspLoopEnds_iff {n : Nat} {a : Word} {s t : State} : PutspLoopEnds n a s t ↔ putspStrings.EndsAfter n a s t := by
  constructor
  · intro h
    induction h with
    | stopLow a w s t hread hl =>
      refine ⟨by rw [hread]; exact endsPutsp_eq_true_iff.mpr (.inl hl), ?_⟩
      rw [putspStrings_lastTurn_low (by rw [hread]; exact hl), hread]
    | stopHigh a w s u hread hl hh =>
      refine ⟨by rw [hread]; exact endsPutsp_eq_true_iff.mpr (.inr hh), ?_⟩
      rw [putspStrings_lastTurn_high (by rw [hread]; exact hl), hread]
    | emit n a w s u t hread hl hh _ ih =>
      exact ⟨by rw [hread]; exact endsPutsp_eq_false_iff.mpr ⟨hl, hh⟩, by rw [StringLoop.turn, hread]; exact ih⟩
  · intro h
    induction n generalizing a s with
    | zero =>
      obtain ⟨he, rfl⟩ := h
      by_cases hl : lowByte (s.memRead a).1 = 0x00
      · rw [putspStrings_lastTurn_low hl]
        exact .stopLow a _ s _ rfl hl
      · rw [putspStrings_lastTurn_high hl]
        exact .stopHigh a _ s _ rfl hl ((endsPutsp_eq_true_iff.mp he).resolve_left hl)
    | succ n ih =>
      obtain ⟨he, hrest⟩ := h
      obtain ⟨hl, hh⟩ := endsPutsp_eq_false_iff.mp he
      exact .emit n a _ s _ t rfl hl hh (ih hrest)

/-- PUTSP is a pass of the shared loop from the address in register 0, which the link write leaves. -/
theorem exec_putsp (s : State) : exec .putsp s = .next (putspStrings.run stringPass (s.reg .r0) s.link) :=
  congrArg Host.Outcome.next (State.putspLoop_eq stringPass (s.reg .r0) s.link)

/-- Settles O39: as O38, the loop of the model is the loop of R116. -/
theorem putspFollowsItsLoop : Obligations.PutspFollowsItsLoop := by
  intro s
  obtain ⟨hends, hwaits⟩ := putspStrings.run_stringPass (s.reg .r0) s.link
  simp only [putspLoopEnds_iff, exec_putsp]
  exact ⟨fun n u hn h => congrArg _ (hends n u hn h), fun h => ⟨_, rfl, hwaits h⟩⟩

/-- Settles O37: the last word has a byte of its own only where its zero byte is the high one, and no read runs the probe. -/
theorem putspEmitsPackedString : Obligations.PutspEmitsPackedString := by
  intro s ws last hlen hws hlast hne hcell hend
  have ht := StringLoop.run_stringPass_of_cells (L := putspStrings) (s := s.link) hlen
    (fun w hw => endsPutsp_eq_false_iff.mpr (hws w hw)) (endsPutsp_eq_true_iff.mpr hlast) hne hcell hend
  obtain ⟨h7, hr⟩ := reg_of_linked (s := s) (t := putspStrings.run stringPass (s.reg .r0) s.link) (by rw [ht])
  exact ⟨_, exec_putsp s, h7, hr, by rw [ht, ← List.append_assoc]; rfl⟩

end Sys2Proof.Machine
end

section
/-! PROOFS. The loader (spec/70_reset_and_hazards.md R155 to R158): what the bytes of an image mean, and which cells a load writes. -/

namespace Sys2Proof.Machine

/-! ### The bytes of an image (R155, R158) -/

@[simp] theorem wordOfBytes_highByte_lowByte (w : Word) : wordOfBytes (highByte w) (lowByte w) = w :=
  BitVec.extractLsb'_append_extractLsb' (w := 8) (len := 8) (x := w)

/-- The bytes of whole words are read back as those words, and what follows them is read on its own. -/
theorem wordsOfBytes_flatMap_append (ws : List Word) (tail : List Byte) :
    wordsOfBytes (ws.flatMap (fun w => [highByte w, lowByte w]) ++ tail) = ws ++ wordsOfBytes tail := by
  induction ws with
  | nil => rfl
  | cons w ws ih => simp [wordsOfBytes, ih]

/-- An image is read as its origin word and the words of the bytes after it. -/
theorem parseImage_origin (origin : Word) (bytes : List Byte) :
    parseImage (highByte origin :: lowByte origin :: bytes) = some (origin, wordsOfBytes bytes) := by
  simp [parseImage]

/-- Settles O55: after the words nothing is left, or one byte, and neither makes a word. -/
theorem imageBytesAreBigEndian : Obligations.ImageBytesAreBigEndian := by
  intro origin ws odd
  have hwhole := wordsOfBytes_flatMap_append ws []
  have hodd := wordsOfBytes_flatMap_append ws [odd]
  simp only [wordsOfBytes, List.append_nil] at hwhole hodd
  simp only [parseImage_origin, hwhole, hodd, and_self]

/-! ### The cells of a load (R156) -/

/-- Words loaded from `a` on leave every cell before `a` as it was. -/
theorem readNat_loadWords_of_lt (ws : List Word) {a b : Nat} (m : Memory) (h : b < a) :
    Memory.readNat (loadWords a ws m) b = Memory.readNat m b := by
  induction ws generalizing a m with
  | nil => rfl
  | cons w ws ih =>
    rw [loadWords]
    split
    · rfl
    · rw [ih _ (by omega), Memory.readNat_writeNat_ne m w (by omega)]

/-- From the origin `a` on, the cell of the address space at distance `b - a` reads as the word at that index, if there is one. -/
theorem readNat_loadWords_of_le (ws : List Word) {a b : Nat} {m : Memory} (hm : Memory.wf m = true) (hab : a ≤ b) (hb : b < 65536) :
    Memory.readNat (loadWords a ws m) b = ws[b - a]?.getD (Memory.readNat m b) := by
  induction ws generalizing a m with
  | nil => rfl
  | cons w ws ih =>
    rw [loadWords, if_neg (by omega)]
    obtain rfl | hlt := Nat.eq_or_lt_of_le hab
    · rw [readNat_loadWords_of_lt ws _ (Nat.lt_succ_self a), Memory.readNat_writeNat_self m a w hm, Nat.sub_self]
      rfl
    · have hwf : Memory.wf (Memory.writeNat m a w) = true := Memory.wfFrom_writeNat m a w hm (Nat.zero_le a) (by omega)
      rw [ih hwf hlt, Memory.readNat_writeNat_ne m w (by omega), show b - a = b - (a + 1) + 1 by omega, List.getElem?_cons_succ]

/-- Settles O54: before the origin no cell changes, and from it on the cell at each distance holds the word there, if there is one. -/
theorem loadPlacesWords : Obligations.LoadPlacesWords := by
  intro origin b ws m hm
  by_cases hle : origin.toNat ≤ b.toNat
  · rw [Memory.read, readNat_loadWords_of_le ws hm hle b.isLt]
    by_cases hlen : b.toNat - origin.toNat < ws.length
    · rw [dif_pos ⟨hle, hlen⟩, List.getElem?_eq_getElem hlen, Option.getD_some]
    · rw [dif_neg fun h => hlen h.2, List.getElem?_eq_none (Nat.le_of_not_lt hlen), Option.getD_none, Memory.read]
  · rw [dif_neg fun h => hle h.1]
    exact readNat_loadWords_of_lt ws m (Nat.lt_of_not_le hle)

/-! ### Images in sequence (R157) -/

theorem State.loadImage_of_parse {bytes : List Byte} {origin : Word} {ws : List Word} (h : parseImage bytes = some (origin, ws))
    (s : State) : s.loadImage bytes = { s with mem := loadWords origin.toNat ws s.mem } := by
  rw [State.loadImage, h]

/-- Settles O56: the second load acts on the memory the first one leaves, which is canonical again. -/
theorem lastImageWins : Obligations.LastImageWins := by
  intro s first second origin ws hs hparse
  have hloads : s.loadImages [some first, some second] = some ((s.loadImage first).loadImage second) := rfl
  refine ⟨_, hloads, (State.loadImages_some hloads).1, fun b => ?_⟩
  rw [State.loadImage_of_parse hparse]
  exact loadPlacesWords origin b ws (s.loadImage first).mem (State.loadImage_wf first hs)

end Sys2Proof.Machine
end
